-- ==== Sys2Proof/Word.lean ====
section
/-! DEFINITION. The word types of `dithering_engine` (00_scope.md rule R8): bytes and 32-bit registers. -/

namespace Sys2Proof

/-- A channel byte, a luminance plane entry (R8: 8 bits, unsigned). -/
abbrev Byte := BitVec 8

/-- A register datum or a command word (R8: 32 bits). -/
abbrev Word := BitVec 32

end Sys2Proof
end

