-- ==== Sys2Proof/Syntax.lean ====
section
/-! DEFINITION. The commands of the block: one constructor per row of spec/opcode_table.json (30_encoding.md rule
R71), and the one command format `C` (rule R70) as its four raw fields. -/

namespace Sys2Proof

/-- The five operations (R2, R71). `THRESH` and `BAYER` carry the threshold operand `T`, an unsigned 9-bit number
(R72); the other operands are registers and memory (R73), so no constructor holds them. -/
inductive Instr where
  /-- `GRAY`, the document's `grayscale(buffer)` (41_pointwise.md R101). -/
  | gray
  /-- `THRESH T`, the document's `threshold(buffer, t)` (R102). -/
  | thresh (t : BitVec 9)
  /-- `BAYER T`, the document's `bayer(buffer, t)` (R104). -/
  | bayer (t : BitVec 9)
  /-- `FSD`, the document's `floydsteinberg(buffer)` (42_error_diffusion.md R128). -/
  | fsd
  /-- `ATK`, the document's `atkinson(buffer)` (R129). -/
  | atk
deriving DecidableEq, Repr

/-- The four fields of a command word in format `C` (R70), most significant first; any 32-bit word has them. -/
structure Fields where
  /-- bits 31:17, reserved -/
  rsv1 : BitVec 15
  /-- bits 16:8, the threshold operand -/
  t : BitVec 9
  /-- bits 7:4, reserved -/
  rsv0 : BitVec 4
  /-- bits 3:0, the operation code -/
  opc : BitVec 4
deriving DecidableEq, Repr

end Sys2Proof
end

