-- ==== Sys2Proof/WellFormed.lean ====
section
/-! DEFINITION. When the fields of a command word are well formed (30_encoding.md rules R70, R71, R74). Every value
of `Instr` is well formed by its type; the checks are on raw command fields, which can be ill formed. -/

namespace Sys2Proof

/-- Both reserved fields are 0 (R70). -/
def Fields.reservedZero (f : Fields) : Bool := f.rsv1 == 0 && f.rsv0 == 0

/-- The operation code is one of the five in use (R71): 0x1 to 0x5. -/
def Fields.opcodeKnown (f : Fields) : Bool := decide (1 ≤ f.opc.toNat) && decide (f.opc.toNat ≤ 5)

/-- Only `THRESH` (0x2) and `BAYER` (0x3) may have a threshold field that is not 0 (R74). -/
def Fields.thresholdFits (f : Fields) : Bool := f.opc == 2 || f.opc == 3 || f.t == 0

/-- A legal command word's fields: the complement of R74. -/
def Fields.wellFormed (f : Fields) : Bool := f.reservedZero && f.opcodeKnown && f.thresholdFits

end Sys2Proof
end

