-- ==== Sys2Proof/Decode.lean ====
section
/-! DEFINITION. Decoding and encoding of command words (30_encoding.md rules R70 to R76). Decoding is total on 32-bit
words and depends on the word alone (R76); an illegal word is rejected by name. -/

namespace Sys2Proof

/-- Why a word is illegal (R74); the block itself records only `ILLEGAL_CMD`. -/
inductive Illegal where
  /-- a non-zero bit among 31:17 or 7:4 -/
  | reservedBits
  /-- operation code 0x0 or 0x6 to 0xF -/
  | reservedOpcode
  /-- `GRAY`, `FSD` or `ATK` with a non-zero `T` field -/
  | strayThreshold
deriving DecidableEq, Repr

/-- The answer of `decode` (R75): one of the five operations, or illegal. -/
inductive Decoded where
  | instr (i : Instr)
  | illegal (why : Illegal)
deriving DecidableEq, Repr

/-- The fields of a word in format `C` (R70). -/
def splitWord (w : Word) : Fields where
  rsv1 := w.extractLsb' 17 15
  t := w.extractLsb' 8 9
  rsv0 := w.extractLsb' 4 4
  opc := w.extractLsb' 0 4

/-- The word that has the given fields (R70). -/
def joinFields (f : Fields) : Word := f.rsv1 ++ f.t ++ f.rsv0 ++ f.opc

/-- An operation that takes no threshold: its `T` field must be 0 (R74, R75). -/
def withoutThreshold (i : Instr) (t : BitVec 9) : Decoded :=
  if t = 0 then .instr i else .illegal .strayThreshold

/-- `decode(word)` (R75). -/
def decode (w : Word) : Decoded :=
  if (splitWord w).rsv1 ≠ 0 ∨ (splitWord w).rsv0 ≠ 0 then .illegal .reservedBits
  else
    match (splitWord w).opc.toNat with
    | 1 => withoutThreshold .gray (splitWord w).t
    | 2 => .instr (.thresh (splitWord w).t)
    | 3 => .instr (.bayer (splitWord w).t)
    | 4 => withoutThreshold .fsd (splitWord w).t
    | 5 => withoutThreshold .atk (splitWord w).t
    | _ => .illegal .reservedOpcode

/-- The operation code of an operation (R71). -/
def Instr.opcode : Instr → BitVec 4
  | .gray => 0x1
  | .thresh _ => 0x2
  | .bayer _ => 0x3
  | .fsd => 0x4
  | .atk => 0x5

/-- The `T` field of an operation's word: the operand of `THRESH` and `BAYER`, 0 for the others (R71, R152). -/
def Instr.threshold : Instr → BitVec 9
  | .gray => 0
  | .thresh t => t
  | .bayer t => t
  | .fsd => 0
  | .atk => 0

/-- The four fields of an operation's command word (R70, R71). -/
def Instr.fields (i : Instr) : Fields := ⟨0, i.threshold, 0, i.opcode⟩

/-- `encode` (R75): the command word of an operation. -/
def encode (i : Instr) : Word := joinFields i.fields

/-- The command word that a table row's bits stand for: `nbits` bits, every bit above them 0. A command is one
32-bit register datum (R70), so no byte order arises (R54). -/
def tableWord (nbits w : Nat) : Word := BitVec.ofNat 32 (w % 2 ^ nbits)

/-- The instruction the decoder reads from `nbits` bits `w` of the opcode table; a datum of more than 32 bits is no
command (R70: one length). -/
def decodeTableWord (nbits w : Nat) : Option Instr :=
  if w % 2 ^ nbits < 2 ^ 32 then
    match decode (tableWord nbits w) with
    | .instr i => some i
    | .illegal _ => none
  else none

end Sys2Proof
end

