-- ==== Sys2Proof/Config.lean ====
section
/-! DEFINITION. What an implementation fixes (00_scope.md rule R7) and the free values the spec calls `UNSPEC`
(rule R17). Both are opaque: no proof can learn a value of them. -/

namespace Sys2Proof

/-- How far the capacity of the block lies above the least one allowed; see `Config.maxPixels`. -/
opaque Config.spareCapacity : Nat

/-- `MAX_PIXELS` (R7): a natural number, at least 1, that the spec leaves to the implementation (D5, U15). -/
def Config.maxPixels : Nat := Config.spareCapacity + 1

/-- The draws for `UNSPEC` bytes (R17): the `n`-th byte read of the machine, where that byte is `UNSPEC`, answers
`unspecByte n`. Two reads never share an index, so each occurrence is a choice of its own. Log entry 2. -/
opaque Config.unspecByte : Nat → Byte

end Sys2Proof
end

