-- ==== Sys2Proof/Machine/State.lean ====
section
/-! DEFINITION. The state of the machine (10_state.md rule R20), its reset value (rule R38), and the reasons a step
can stop. The block's own faults (60_exceptions.md) are recorded in `STATUS` and are next states, not `Fault`s. -/

namespace Sys2Proof.Machine

/-- A memory of the block (`PIX` or `LUM`): addresses strictly rising (`Memory.wf`). A listed address holds its
byte; an address that is not listed is `UNSPEC` (R17, R34, R35), that is, it holds no value of its own and a read of
it answers a draw. -/
abbrev Memory := List Host.Cell

/-- The sequencer phase (R28). -/
inductive Phase where
  /-- no operation is running -/
  | idle
  /-- a pointwise operation is running its single pass -/
  | scan
  /-- a diffusion operation is computing the luminance plane -/
  | pass1
  /-- a diffusion operation is binarising and diffusing -/
  | pass2
deriving DecidableEq, Repr

/-- The four fault causes of the block (60_exceptions.md R172). -/
inductive Cause where
  | illegalCmd
  | dimRange
  | busyWrite
  | bufOwned
deriving DecidableEq, Repr

/-- A host access (00_scope.md R9, 43_host_access.md). `busRead` and `busWrite` are the same register accesses as a
byte-addressed bus presents them, with a byte offset and a size in bytes (20_memory.md R55, R59). -/
inductive Access where
  | regRead (idx : Nat)
  | regWrite (idx : Nat) (v : Word)
  | pixRead (off : Nat)
  | pixWrite (off : Nat) (b : Byte)
  | busRead (off size : Nat)
  | busWrite (off size : Nat) (v : Word)
deriving DecidableEq, Repr

/-- One entry of the schedule that interleaves the agents (R9, R10). -/
inductive Event where
  /-- the host makes an access -/
  | host (a : Access)
  /-- the reset input is asserted and released (70_reset_and_hazards.md R190) -/
  | reset
  /-- the engine has the turn -/
  | engine
deriving DecidableEq, Repr

/-- What a host read returned (R150, R154); the host script records it (30_encoding.md R77). -/
inductive Reply where
  | reg (v : Word)
  | pix (b : Byte)
deriving DecidableEq, Repr

/-- The machine: the block's own state (R20, the first eleven fields) and four fields of the model, which carry the
open parameter and the outside world (log entries 1, 2 and 3). -/
structure State where
  /-- `CMD.OPC`, R23 -/
  opc : BitVec 4
  /-- `CMD.T`, R23 -/
  t : BitVec 9
  /-- `STATUS.DONE`, R26 -/
  done : Bool
  /-- `STATUS.ERR`, R27 -/
  err : Bool
  /-- `STATUS.CAUSE`, R27 -/
  cause : BitVec 4
  /-- `WIDTH.W`, R21 -/
  width : BitVec 16
  /-- `HEIGHT.H`, R22 -/
  height : BitVec 16
  /-- `PHASE`, R28 -/
  phase : Phase
  /-- `POS`, R29 -/
  pos : Nat
  /-- `PIX`, R34 -/
  pix : Memory
  /-- `LUM`, R35 -/
  lum : Memory
  /-- model's own: the parameter `MAX_PIXELS` (R7), which no step changes -/
  maxPixels : Nat
  /-- model's own: what the host, the reset input and the engine's turns will be, oldest first -/
  pending : List Event
  /-- model's own: what the host's reads have returned, oldest first -/
  replies : List Reply
  /-- model's own: the index of the next draw for an `UNSPEC` byte (R17) -/
  draws : Nat
deriving DecidableEq, Repr

/-- Why the machine stops with a fault. No state that a run reaches stops so (Safety.lean, `State.Inv`). -/
inductive Fault where
  /-- Raised by a meaning whose operation has no step in the current phase (R41(c): `SCAN` belongs to `GRAY`,
  `THRESH`, `BAYER`; `PASS1` and `PASS2` to `FSD`, `ATK`). Safe: no rule gives a step there. -/
  | noStepInPhase
  /-- Raised by the engine's turn when the block is busy and `CMD` holds no legal command (R41(c) excludes it).
  Safe: no rule gives a step there. -/
  | noOperationInCmd
deriving DecidableEq, Repr

/-- What the model gives no meaning. -/
inductive Refusal where
  /-- Raised by no arm at present: an instruction without a meaning. Safe. -/
  | notModelled (mnemonic : String)
  /-- Raised by a register access with index 4 or above (R156: "a model refuses them"). Safe. -/
  | registerIndex
  /-- Raised by a register access on a byte-addressed bus that is not a naturally aligned 32-bit access (R55, R156).
  Safe. -/
  | partialRegisterAccess
  /-- Raised by `PixRead` or `PixWrite` at an offset outside `0 .. 4*MAX_PIXELS-1` (R154, R155). Safe. -/
  | pixelOffset
deriving DecidableEq, Repr

/-- The machine right after the reset that follows power-on (R38, R193): every register 0, `IDLE`, both memories
`UNSPEC`; nothing is scheduled and nothing has been read (log entry 3). -/
def State.reset : State where
  opc := 0
  t := 0
  done := false
  err := false
  cause := 0
  width := 0
  height := 0
  phase := .idle
  pos := 0
  pix := []
  lum := []
  maxPixels := Config.maxPixels
  pending := []
  replies := []
  draws := 0

end Sys2Proof.Machine
end

