-- ==== Sys2Proof/Machine/Flags.lean ====
section
/-! DEFINITION. The flags and the readable registers (10_state.md rules R21 to R27, R37; 43_host_access.md R150). The
block has no arithmetic condition codes (R40). -/

namespace Sys2Proof.Machine

/-- `STATUS.BUSY` (R25): 1 exactly when `PHASE` is not `IDLE`; also the wire `busy` (R37). -/
def State.busy (s : State) : Bool := decide (s.phase ≠ .idle)

/-- The wire `done` (R37). -/
def State.doneWire (s : State) : Bool := s.done

/-- The wire `err` (R37). -/
def State.errWire (s : State) : Bool := s.err

/-- `NPIX = W * H`, without wrap-around (00_scope.md R14). -/
def State.npix (s : State) : Nat := s.width.toNat * s.height.toNat

/-- The code of a cause in `STATUS.CAUSE` (60_exceptions.md R172). -/
def Cause.code : Cause → BitVec 4
  | .illegalCmd => 1
  | .dimRange => 2
  | .busyWrite => 3
  | .bufOwned => 4

/-- `RegRead(0)`: the last accepted command word, `{0[14:0], T, 0[3:0], OPC}` (R23, R150). -/
def State.cmdWord (s : State) : Word := joinFields ⟨0, s.t, 0, s.opc⟩

/-- `RegRead(1)`: bit 0 `BUSY`, bit 1 `DONE`, bit 2 `ERR`, bits 7:4 `CAUSE`, the rest 0 (R24, R150). -/
def State.statusWord (s : State) : Word :=
  (0 : BitVec 24) ++ s.cause ++ (0 : BitVec 1) ++ BitVec.ofBool s.err ++ BitVec.ofBool s.done ++ BitVec.ofBool s.busy

/-- `RegRead(2)`: bits 31:16 read as 0 (R21). -/
def State.widthWord (s : State) : Word := s.width.zeroExtend 32

/-- `RegRead(3)`: bits 31:16 read as 0 (R22). -/
def State.heightWord (s : State) : Word := s.height.zeroExtend 32

end Sys2Proof.Machine
end

