-- ==== Sys2Proof/Machine/Operands.lean ====
section
/-! DEFINITION. The datapath: integer primitives (00_scope.md R12), `rgb_to_luminance` (40_luminance.md), the
threshold matrix `luminance_matrix` (10_state.md R33), the output functions of the pointwise operations
(41_pointwise.md) and the quantiser and neighbour tables of the diffusion operations (42_error_diffusion.md). All are
pure functions of their arguments (R96). -/

namespace Sys2Proof.Machine

/-- `fdiv(a, b)` (R12): the floor of the exact quotient, rounding toward negative infinity. -/
def fdiv (a b : Int) : Int := Int.fdiv a b

/-- `clamp8(v)` (R12). -/
def clamp8 (v : Int) : Byte := if v < 0 then 0 else if 255 < v then 255 else BitVec.ofNat 8 v.toNat

/-- `Q8` of the rational `a / b` (R93): the fraction is discarded and the result limited to `0 .. 255`. -/
def q8 (a b : Int) : Byte := clamp8 (fdiv a b)

/-- The luminance numerator `NUM` (R91); `L = NUM / 1000` exactly (R90). -/
def lumNum (r g b : Byte) : Nat := 299 * r.toNat + 587 * g.toNat + 114 * b.toNat

/-- The 8-bit luminance `LUM8 = Q8(L)` (R94). -/
def lum8 (r g b : Byte) : Byte := q8 (lumNum r g b) 1000

/-- The 16 entries of the threshold matrix in the order of the hexadecimal list of R33. -/
def matrixRom : List Nat := [15, 135, 45, 165, 195, 75, 225, 105, 60, 180, 30, 150, 240, 120, 210, 90]

/-- `M[i][k]`, `i` and `k` below 4: the entry at ROM address `4 * i + k` (R33). -/
def matrixEntry (i k : Nat) : Nat := matrixRom.getD (4 * i + k) 0

/-- `x(l)`, the column of position `l` in rows of length `w` (R14). -/
def column (w l : Nat) : Nat := l % w

/-- `y(l)`, the row of position `l` (R14). -/
def row (w l : Nat) : Nat := l / w

/-- The bias `m(l)` (R103): the column selects the first index, the row the second. -/
def bias (w l : Nat) : Nat := matrixEntry (column w l % 4) (row w l % 4)

/-- `B4` (R104): the floor of the mean of the luminance and the bias `m`. -/
def biased (m : Nat) (r g b : Byte) : Nat := (lumNum r g b + 1000 * m) / 2000

/-- `OUT` of `GRAY` (R101). -/
def grayOut (r g b : Byte) : Byte := lum8 r g b

/-- `OUT` of `THRESH T` (R102): the comparison is strict and uses the unrounded luminance. -/
def threshOut (t : BitVec 9) (r g b : Byte) : Byte := if lumNum r g b < 1000 * t.toNat then 0 else 255

/-- `OUT` of `BAYER T` at position `l` of an image of width `w` (R104). -/
def bayerOut (t : BitVec 9) (w l : Nat) (r g b : Byte) : Byte :=
  if t.toNat ≤ biased (bias w l) r g b then 255 else 0

/-- The binarised value `V` of a plane entry `A` (R123): the cutoff is 129. -/
def binarise (a : Byte) : Byte := if a.toNat < 129 then 0 else 255

/-- The error quotient `E = fdiv(A - V, DIV)` (R124). -/
def errorQuotient (divisor : Int) (a : Byte) : Int := fdiv ((a.toNat : Int) - (binarise a).toNat) divisor

/-- `DIV` of `FSD` (R124). -/
def fsdDivisor : Int := 16

/-- `DIV` of `ATK` (R124). -/
def atkDivisor : Int := 8

/-- The neighbour table of `FSD` for width `w` (R126): offset and weight, in the order of application. -/
def fsdNeighbours (w : Nat) : List (Nat × Int) := [(1, 7), (w - 1, 3), (w, 5), (w + 1, 1)]

/-- The neighbour table of `ATK` for width `w` (R127). -/
def atkNeighbours (w : Nat) : List (Nat × Int) :=
  [(1, 1), (2, 1), (w - 1, 1), (w, 1), (w + 1, 1), (2 * w, 1)]

end Sys2Proof.Machine
end

