-- ==== Sys2Proof/Machine/Ops.lean ====
section
/-! DEFINITION. The named operations over memories and registers (00_scope.md R13), taking a fault of the block and
acknowledging it (60_exceptions.md R171, R176), and the accumulator (42_error_diffusion.md R125). -/

namespace Sys2Proof.Machine

/-- The canonical form of a memory: addresses strictly rising, so that equal memories are equal data. No listed byte
can equal what an unlisted address reads as, for that address holds no value. -/
abbrev Memory.wf (m : Memory) : Prop := m.Pairwise (fun c d => c.1 < d.1)

/-- The byte a memory holds at an address; `none` where it is `UNSPEC`. -/
def Memory.read : Memory → Nat → Option Byte
  | [], _ => none
  | c :: m, a => if a = c.1 then some c.2 else Memory.read m a

/-- `MemWrite` of one byte (R13). -/
def Memory.write : Memory → Nat → Byte → Memory
  | [], a, b => [(a, b)]
  | c :: m, a, b =>
    if a < c.1 then (a, b) :: c :: m
    else if a = c.1 then (a, b) :: m
    else c :: Memory.write m a b

/-- The bytes at the addresses that `p` picks become `UNSPEC` (R192). -/
def Memory.forget (p : Nat → Bool) (m : Memory) : Memory := m.filter (fun c => !p c.1)

/-- One byte read that is the `k`-th of its step (R13, R17): the byte held, or the draw of that read where the byte is
`UNSPEC`. -/
def readOr (m : Memory) (a draw : Nat) : Byte := (m.read a).getD (Config.unspecByte draw)

/-- The red channel of pixel `l` as the step at it reads it (20_memory.md R51, R56). -/
def State.redAt (s : State) (l : Nat) : Byte := readOr s.pix (4 * l) s.draws

/-- The green channel of pixel `l`. -/
def State.greenAt (s : State) (l : Nat) : Byte := readOr s.pix (4 * l + 1) (s.draws + 1)

/-- The blue channel of pixel `l`. -/
def State.blueAt (s : State) (l : Nat) : Byte := readOr s.pix (4 * l + 2) (s.draws + 2)

/-- The luminance plane entry `LUM[l]` as the step at it reads it. -/
def State.lumAt (s : State) (l : Nat) : Byte := readOr s.lum l s.draws

/-- `k` byte reads were made: their draw indices are used up (R17). -/
def State.spendDraws (k : Nat) (s : State) : State := { s with draws := s.draws + k }

/-- Write one value to the red, green and blue bytes of pixel `l`; alpha is not touched (R56). -/
def State.writeRgb (l : Nat) (v : Byte) (s : State) : State :=
  { s with pix := ((s.pix.write (4 * l) v).write (4 * l + 1) v).write (4 * l + 2) v }

/-- `LUM[l] <- v`. -/
def State.writeLum (l : Nat) (v : Byte) (s : State) : State := { s with lum := s.lum.write l v }

/-- `POS <- l`. -/
def State.setPos (l : Nat) (s : State) : State := { s with pos := l }

/-- `ACC(j, C)` (R125): a signed sum clamped to 8 bits; dropped where `j` lies outside the plane (20_memory.md R53,
R65). -/
def State.acc (j : Nat) (c : Int) (s : State) : State :=
  if j < s.npix then
    (s.writeLum j (clamp8 ((s.lumAt j).toNat + c))).spendDraws 1
  else s

/-- The contributions of error quotient `e` at position `l`, in the order of the neighbour table (R126, R127). -/
def State.diffuse (l : Nat) (e : Int) : List (Nat × Int) → State → State
  | [], s => s
  | n :: rest, s => State.diffuse l e rest (s.acc (l + n.1) (e * n.2))

/-- `raise <Cause>` (00_scope.md R15, 60_exceptions.md R171, R175): taking a fault sets `ERR` and `CAUSE`, and only
if `ERR` was 0; the first cause is kept. Nothing else is saved and no control is transferred. -/
def State.raise (c : Cause) (s : State) : State :=
  if s.err then s else { s with err := true, cause := c.code }

/-- The return from a fault (60_exceptions.md R176): `ERR` and `CAUSE` are cleared together. -/
def State.acknowledge (s : State) : State := { s with err := false, cause := 0 }

/-- A host read returned `r`. -/
def State.reply (r : Reply) (s : State) : State := { s with replies := s.replies ++ [r] }

/-- Whether `a` is a red, green or blue byte of an image of `n` pixels (20_memory.md R51, R52). -/
def isImageColour (n a : Nat) : Bool := decide (a < 4 * n) && decide (a % 4 ≠ 3)

/-- The reset transition (70_reset_and_hazards.md R190 to R192, 10_state.md R38): registers and sequencer cleared,
`LUM` `UNSPEC`; `PIX` kept if the block was idle, else every R, G, B byte of the image `UNSPEC`. -/
def State.resetBlock (s : State) : State :=
  { s with
    opc := 0, t := 0, done := false, err := false, cause := 0, width := 0, height := 0
    phase := .idle, pos := 0, lum := []
    pix := if s.busy then s.pix.forget (isImageColour s.npix) else s.pix }

end Sys2Proof.Machine
end

