-- ==== Sys2Proof/Machine/Sequencer.lean ====
section
/-! DEFINITION. The raster-scan sequencer: command acceptance (43_host_access.md R152), the steps of the three
phases (41_pointwise.md R100, 42_error_diffusion.md R121, R122, R128 to R130), and the two shapes of an operation. Each
step is one atomic transition (20_memory.md R57). -/

namespace Sys2Proof.Machine

/-- A command passed every check (R152, "accepted"). -/
def State.accept (opc : BitVec 4) (t : BitVec 9) (first : Phase) (s : State) : State :=
  { s with opc := opc, t := t, done := false, pos := 0, phase := first }

/-- A legal command written to `CMD` while idle, from check 2 of R152 on: dropped while `ERR = 1`, `DIM_RANGE` over
the capacity, else accepted. -/
def State.issue (opc : BitVec 4) (t : BitVec 9) (first : Phase) (s : State) : State :=
  if s.err then s
  else if s.maxPixels < s.npix then s.raise .dimRange
  else s.accept opc t first

/-- The completion step (R100, R130): `PHASE` returns to `IDLE` and `DONE` is set, in one step; `POS` stays (R29). -/
def State.complete (s : State) : State := { s with phase := .idle, done := true }

/-- The `SCAN` step with output function `out` (R100). The pixel step is guarded by `POS < NPIX`, which is
`POS ≠ NPIX` in every reachable state (R41(b), log entry 6). -/
def State.scanStep (out : Byte → Byte → Byte → Byte) (s : State) : State :=
  if s.pos < s.npix then
    ((s.writeRgb s.pos (out (s.redAt s.pos) (s.greenAt s.pos) (s.blueAt s.pos))).setPos (s.pos + 1)).spendDraws 3
  else s.complete

/-- The `PASS1` step (R121) and the change of pass (R122). -/
def State.pass1Step (s : State) : State :=
  if s.pos < s.npix then
    ((s.writeLum s.pos (lum8 (s.redAt s.pos) (s.greenAt s.pos) (s.blueAt s.pos))).setPos (s.pos + 1)).spendDraws 3
  else { s with phase := .pass2, pos := 0 }

/-- The `PASS2` step (R128, R129, R130): `A` is read before any `ACC` of the step. -/
def State.pass2Step (divisor : Int) (neighbours : List (Nat × Int)) (s : State) : State :=
  if s.pos < s.npix then
    (State.diffuse s.pos (errorQuotient divisor (s.lumAt s.pos)) neighbours
      ((s.writeRgb s.pos (binarise (s.lumAt s.pos))).spendDraws 1)).setPos (s.pos + 1)
  else s.complete

/-- A pointwise operation: its acceptance while `IDLE`, its step in `SCAN` (R28, R100, R152). -/
def pointwise (opc : BitVec 4) (t : BitVec 9) (out : Byte → Byte → Byte → Byte) (s : State) :
    Host.Outcome State Fault Refusal :=
  match s.phase with
  | .idle => .next (s.issue opc t .scan)
  | .scan => .next (s.scanStep out)
  | .pass1 => .fault .noStepInPhase
  | .pass2 => .fault .noStepInPhase

/-- A diffusion operation: its acceptance while `IDLE`, its steps in `PASS1` and `PASS2` (R28, R120, R152). -/
def diffusion (opc : BitVec 4) (divisor : Int) (neighbours : List (Nat × Int)) (s : State) :
    Host.Outcome State Fault Refusal :=
  match s.phase with
  | .idle => .next (s.issue opc 0 .pass1)
  | .pass1 => .next s.pass1Step
  | .pass2 => .next (s.pass2Step divisor neighbours)
  | .scan => .fault .noStepInPhase

end Sys2Proof.Machine
end

