-- ==== Sys2Proof/Machine/Diffusion.lean ====
section
/-! DEFINITION. The meanings of `FSD` and `ATK` (42_error_diffusion.md). A meaning is the one atomic transition the
operation has in the given state: acceptance of its command while `IDLE`, its engine step in `PASS1` or `PASS2`. -/

namespace Sys2Proof.Machine

/-- `FSD`, Floyd–Steinberg error diffusion (R128). -/
def execFsd (s : State) : Host.Outcome State Fault Refusal :=
  diffusion 0x4 fsdDivisor (fsdNeighbours s.width.toNat) s

/-- `ATK`, Atkinson error diffusion (R129). -/
def execAtk (s : State) : Host.Outcome State Fault Refusal :=
  diffusion 0x5 atkDivisor (atkNeighbours s.width.toNat) s

end Sys2Proof.Machine
end

