-- ==== Sys2Proof/Machine/Pointwise.lean ====
section
/-! DEFINITION. The meanings of `GRAY`, `THRESH` and `BAYER` (41_pointwise.md). A meaning is the one atomic transition
the operation has in the given state: acceptance of its command while `IDLE`, its engine step in `SCAN`. -/

namespace Sys2Proof.Machine

/-- `GRAY` (R101). -/
def execGray (s : State) : Host.Outcome State Fault Refusal := pointwise 0x1 0 grayOut s

/-- `THRESH T` (R102). -/
def execThresh (t : BitVec 9) (s : State) : Host.Outcome State Fault Refusal := pointwise 0x2 t (threshOut t) s

/-- `BAYER T` (R104); the bias depends on the position and on `WIDTH.W` (R103). -/
def execBayer (t : BitVec 9) (s : State) : Host.Outcome State Fault Refusal :=
  pointwise 0x3 t (bayerOut t s.width.toNat s.pos) s

end Sys2Proof.Machine
end

