-- ==== Sys2Proof/Machine/Dispatch.lean ====
section
/-! DEFINITION. The dispatch: one arm per operation of spec/opcode_table.json. `exec i s` is the atomic transition
that operation `i` has in state `s`: its acceptance while `PHASE = IDLE`, its engine step otherwise. -/

namespace Sys2Proof.Machine

def exec (i : Instr) (s : State) : Host.Outcome State Fault Refusal :=
  match i with
  | .gray => Sys2Proof.Machine.execGray s
  | .thresh t => Sys2Proof.Machine.execThresh t s
  | .bayer t => Sys2Proof.Machine.execBayer t s
  | .fsd => Sys2Proof.Machine.execFsd s
  | .atk => Sys2Proof.Machine.execAtk s

end Sys2Proof.Machine
end

