-- ==== Sys2Proof/Machine/HostAccess.lean ====
section
/-! DEFINITION. Everything the outside world does to the block (43_host_access.md, 70_reset_and_hazards.md R190) and
the engine's turn (00_scope.md R9): the transition of one schedule entry. -/

namespace Sys2Proof.Machine

/-- `RegRead(idx)` (R150); index 4 and above is outside the interface (R156). -/
def regRead (idx : Nat) (s : State) : Host.Outcome State Fault Refusal :=
  match idx with
  | 0 => .next (s.reply (.reg s.cmdWord))
  | 1 => .next (s.reply (.reg s.statusWord))
  | 2 => .next (s.reply (.reg s.widthWord))
  | 3 => .next (s.reply (.reg s.heightWord))
  | _ => .refused .registerIndex

/-- `RegWrite(0, v)`, command issue (R152): checks 1 to 3 here in their order, check 4 and the acceptance in the
meaning of the decoded operation (`State.issue`). -/
def writeCmd (v : Word) (s : State) : Host.Outcome State Fault Refusal :=
  if s.busy then .next (s.raise .busyWrite)
  else if s.err then .next s
  else
    match decode v with
    | .illegal _ => .next (s.raise .illegalCmd)
    | .instr i => exec i s

/-- `DONE` is cleared if `v[1]` is 1 (R153). -/
def State.clearDoneIf (bit : Bool) (s : State) : State := if bit then { s with done := false } else s

/-- `ERR` and `CAUSE` are cleared if `v[2]` is 1 (R153): the return from a fault (R176). -/
def State.acknowledgeIf (bit : Bool) (s : State) : State := if bit then s.acknowledge else s

/-- `RegWrite(1, v)`, write 1 to clear (R153). -/
def writeStatus (v : Word) (s : State) : Host.Outcome State Fault Refusal :=
  .next ((s.clearDoneIf (v.getLsbD 1)).acknowledgeIf (v.getLsbD 2))

/-- `RegWrite(2, v)` (R151): bits 31:16 are ignored. -/
def writeWidth (v : Word) (s : State) : Host.Outcome State Fault Refusal :=
  if s.busy then .next (s.raise .busyWrite) else .next { s with width := v.extractLsb' 0 16 }

/-- `RegWrite(3, v)` (R151). -/
def writeHeight (v : Word) (s : State) : Host.Outcome State Fault Refusal :=
  if s.busy then .next (s.raise .busyWrite) else .next { s with height := v.extractLsb' 0 16 }

/-- `RegWrite(idx, v)` (R151 to R153, R156). -/
def regWrite (idx : Nat) (v : Word) (s : State) : Host.Outcome State Fault Refusal :=
  match idx with
  | 0 => writeCmd v s
  | 1 => writeStatus v s
  | 2 => writeWidth v s
  | 3 => writeHeight v s
  | _ => .refused .registerIndex

/-- `PixRead(off)` (R154): while busy it raises `BUF_OWNED` and returns an `UNSPEC` byte. -/
def pixRead (off : Nat) (s : State) : Host.Outcome State Fault Refusal :=
  if off < 4 * s.maxPixels then
    if s.busy then .next (((s.reply (.pix (Config.unspecByte s.draws))).spendDraws 1).raise .bufOwned)
    else .next ((s.reply (.pix (readOr s.pix off s.draws))).spendDraws 1)
  else .refused .pixelOffset

/-- `PixWrite(off, b)` (R155): while busy it is dropped and raises `BUF_OWNED`. -/
def pixWrite (off : Nat) (b : Byte) (s : State) : Host.Outcome State Fault Refusal :=
  if off < 4 * s.maxPixels then
    if s.busy then .next (s.raise .bufOwned) else .next { s with pix := s.pix.write off b }
  else .refused .pixelOffset

/-- The register a byte-addressed bus access names (R55, R59): register `i` is at byte offset `4 * i`, and only
naturally aligned accesses of 4 bytes are in the interface. -/
def busRegister (off size : Nat) : Option Nat := if size = 4 ∧ off % 4 = 0 then some (off / 4) else none

/-- A register read over a byte-addressed bus (R55, R59). -/
def busRead (off size : Nat) (s : State) : Host.Outcome State Fault Refusal :=
  match busRegister off size with
  | some idx => regRead idx s
  | none => .refused .partialRegisterAccess

/-- A register write over a byte-addressed bus (R55, R59). -/
def busWrite (off size : Nat) (v : Word) (s : State) : Host.Outcome State Fault Refusal :=
  match busRegister off size with
  | some idx => regWrite idx v s
  | none => .refused .partialRegisterAccess

/-- One host access (R9): atomic. -/
def hostAccess (a : Access) (s : State) : Host.Outcome State Fault Refusal :=
  match a with
  | .regRead idx => regRead idx s
  | .regWrite idx v => regWrite idx v s
  | .pixRead off => pixRead off s
  | .pixWrite off b => pixWrite off b s
  | .busRead off size => busRead off size s
  | .busWrite off size v => busWrite off size v s

/-- The engine's turn (R9): it has a step exactly when `BUSY = 1`, and the step is that of the operation held in
`CMD` (R63); while idle nothing happens (R191). -/
def engineTurn (s : State) : Host.Outcome State Fault Refusal :=
  if s.busy then
    match decode s.cmdWord with
    | .instr i => exec i s
    | .illegal _ => .fault .noOperationInCmd
  else .next s

/-- The transition of one schedule entry. -/
def serve (e : Event) (s : State) : Host.Outcome State Fault Refusal :=
  match e with
  | .host a => hostAccess a s
  | .reset => .next s.resetBlock
  | .engine => engineTurn s

/-- A pending write of command word `v` to `CMD`, with the block able to take it: idle and no unacknowledged fault
(checks 1 and 2 of R152). -/
def State.offerCommand (v : Word) (s : State) : State :=
  { s with phase := .idle, err := false, cause := 0, pending := .host (.regWrite 0 v) :: s.pending }

end Sys2Proof.Machine
end

