-- ==== Sys2Proof/Machine/Step.lean ====
section
/-! DEFINITION. One step of the machine: the oldest schedule entry is served; with nothing scheduled the engine has
the turn (00_scope.md R9, 70_reset_and_hazards.md R201). -/

namespace Sys2Proof.Machine

/-- One atomic transition (R9): of the host, of the reset input or of the engine. -/
def step (s : State) : Host.Outcome State Fault Refusal :=
  match s.pending with
  | [] => engineTurn s
  | e :: rest => serve e { s with pending := rest }

/-- The state in which the very next step runs the command of `nbits` table bits `w`: the host's write of that word to
`CMD` stands first in the schedule and the block can take it (R63, R152; log entry 5). -/
def State.withFetchWord (s : State) (nbits w : Nat) : State := s.offerCommand (tableWord nbits w)

end Sys2Proof.Machine
end

