-- ==== Sys2Proof/Machine/Script.lean ====
section
/-! DEFINITION. The host script (30_encoding.md R77) and its pseudo-statements (R78), each as the schedule entries it
expands to. The machine itself never reads a statement: a script is one way to write `State.pending`. -/

namespace Sys2Proof.Machine

/-- A register name of the script (R77). -/
inductive RegName where
  | cmd
  | status
  | width
  | height
deriving DecidableEq, Repr

/-- `index(reg)` (R77, 10_state.md R21 to R24). -/
def RegName.index : RegName → Nat
  | .cmd => 0
  | .status => 1
  | .width => 2
  | .height => 3

/-- A statement (R77) or pseudo-statement (R78). `wait` and `call` carry, for each `RD STATUS` after the first, how
many engine steps fall before it: the interleaving the rule leaves free. -/
inductive Stmt where
  | wr (reg : RegName) (v : Word)
  | rd (reg : RegName)
  | pixw (off : Nat) (b : Byte)
  | pixr (off : Nat)
  | command (i : Instr)
  | reset
  | wait (gaps : List Nat)
  | dim (w h : Word)
  | load (off : Nat) (bytes : List Byte)
  | pixel (l : Nat) (r g b a : Byte)
  | dump (off n : Nat)
  | clrDone
  | clrErr
  | call (i : Instr) (gaps : List Nat)
deriving DecidableEq, Repr

/-- `LOAD off, b0 b1 ... bn`: consecutive `PIXW`. -/
def loadEvents : Nat → List Byte → List Event
  | _, [] => []
  | off, b :: bs => .host (.pixWrite off b) :: loadEvents (off + 1) bs

/-- `DUMP off, n`: `n` consecutive `PIXR`. -/
def dumpEvents (off : Nat) : Nat → List Event
  | 0 => []
  | n + 1 => .host (.pixRead off) :: dumpEvents (off + 1) n

/-- `WAIT` for one interleaving: `RD STATUS`, then for each gap that many engine steps and another `RD STATUS`. -/
def waitEvents : List Nat → List Event
  | [] => [.host (.regRead 1)]
  | k :: gaps => .host (.regRead 1) :: (List.replicate k .engine ++ waitEvents gaps)

/-- The expansion of a statement (R77, R78). -/
def Stmt.events : Stmt → List Event
  | .wr reg v => [.host (.regWrite reg.index v)]
  | .rd reg => [.host (.regRead reg.index)]
  | .pixw off b => [.host (.pixWrite off b)]
  | .pixr off => [.host (.pixRead off)]
  | .command i => [.host (.regWrite 0 (encode i))]
  | .reset => [.reset]
  | .wait gaps => waitEvents gaps
  | .dim w h => [.host (.regWrite 2 w), .host (.regWrite 3 h)]
  | .load off bytes => loadEvents off bytes
  | .pixel l r g b a => loadEvents (4 * l) [r, g, b, a]
  | .dump off n => dumpEvents off n
  | .clrDone => [.host (.regWrite 1 0x2)]
  | .clrErr => [.host (.regWrite 1 0x4)]
  | .call i gaps => .host (.regWrite 0 (encode i)) :: waitEvents gaps

/-- A script is a sequence of statements. -/
def scriptEvents (p : List Stmt) : List Event := p.flatMap Stmt.events

end Sys2Proof.Machine
end

