-- ==== Sys2Proof/Safety.lean ====
section
/-! DEFINITION. What every reachable state satisfies (10_state.md R41, R35), and the vocabulary of the claims: what a
read may answer, what a pixel write changes, which accesses lie outside the interface, and the operations written out
as functions of the image, with nothing of the machine in them. -/

namespace Sys2Proof.Machine

/-- A memory in canonical form whose addresses all lie below `n`. -/
def Memory.Within (n : Nat) (m : Memory) : Prop := m.wf ∧ ∀ a, n ≤ a → m.read a = none

/-- Every entry of the luminance plane below `n` holds a value (R35, R53). -/
def State.PlaneFilled (s : State) (n : Nat) : Prop := ∀ j, j < n → s.lum.read j ≠ none

/-- The invariant of the machine. -/
structure State.Inv (s : State) : Prop where
  /-- R7 -/
  capacity : 1 ≤ s.maxPixels
  /-- R34: `PIX` has `4 * MAX_PIXELS` bytes -/
  pixWithin : s.pix.Within (4 * s.maxPixels)
  /-- R35: `LUM` has `MAX_PIXELS` bytes -/
  lumWithin : s.lum.Within s.maxPixels
  /-- R20: `POS` is `0 .. MAX_PIXELS` -/
  posWithin : s.pos ≤ s.maxPixels
  /-- R41(b) -/
  busyFits : s.phase ≠ .idle → s.npix ≤ s.maxPixels ∧ s.pos ≤ s.npix
  /-- R41(c), pointwise half -/
  scanOperation : s.phase = .scan → ∃ i, decode s.cmdWord = .instr i ∧ (i.opcode = 1 ∨ i.opcode = 2 ∨ i.opcode = 3)
  /-- R41(c), diffusion half -/
  passOperation : s.phase = .pass1 ∨ s.phase = .pass2 →
    ∃ i, decode s.cmdWord = .instr i ∧ (i.opcode = 4 ∨ i.opcode = 5)
  /-- R41(d) -/
  causeIffErr : s.cause = 0 ↔ s.err = false
  /-- R41(e) -/
  doneIdle : s.done = true → s.phase = .idle
  /-- R121: pass 1 has filled the plane up to `POS` -/
  pass1Filled : s.phase = .pass1 → s.PlaneFilled s.pos
  /-- R35: pass 1 filled the whole plane before pass 2 -/
  pass2Filled : s.phase = .pass2 → s.PlaneFilled s.npix

/-- `k` steps of the machine, stopping at the first fault or refusal. -/
def runSteps : Nat → State → Host.Outcome State Fault Refusal
  | 0, s => .next s
  | k + 1, s =>
    match step s with
    | .next t => runSteps k t
    | .fault f => .fault f
    | .refused r => .refused r

/-- `k` engine steps in a row, with nothing scheduled. -/
def runEngine (k : Nat) (s : State) : Host.Outcome State Fault Refusal := runSteps k { s with pending := [] }

/-- A read at `a` may answer `v`: the byte held there, or anything where that byte is `UNSPEC` (R17). -/
def Memory.MayRead (m : Memory) (a : Nat) (v : Byte) : Prop := ∀ b, m.read a = some b → v = b

/-- From memory `m` to `m'` the red, green and blue bytes of pixel `l` became `v` and every other byte of `PIX` reads
as before (20_memory.md R56). -/
def Memory.PixelSet (l : Nat) (v : Byte) (m m' : Memory) : Prop :=
  m'.read (4 * l) = some v ∧ m'.read (4 * l + 1) = some v ∧ m'.read (4 * l + 2) = some v ∧
  ∀ a, a ≠ 4 * l → a ≠ 4 * l + 1 → a ≠ 4 * l + 2 → m'.read a = m.read a

/-- The accesses outside the block's interface (R55, R154, R155, R156). -/
def Access.Outside (maxPixels : Nat) : Access → Prop
  | .regRead idx => 4 ≤ idx
  | .regWrite idx _ => 4 ≤ idx
  | .pixRead off => 4 * maxPixels ≤ off
  | .pixWrite off _ => 4 * maxPixels ≤ off
  | .busRead off size => ¬(size = 4 ∧ off % 4 = 0 ∧ off < 16)
  | .busWrite off size _ => ¬(size = 4 ∧ off % 4 = 0 ∧ off < 16)

/-- A write of `v` to register `idx`, by index or over a byte-addressed bus (R55, R59). -/
def Event.WritesRegister (idx : Nat) (v : Word) (e : Event) : Prop :=
  e = .host (.regWrite idx v) ∨ e = .host (.busWrite (4 * idx) 4 v)

/-- The threshold matrix as R33 prints it: row `i`, entry `k`. -/
def matrixTable : List (List Nat) := [[15, 135, 45, 165], [195, 75, 225, 105], [60, 180, 30, 150], [240, 120, 210, 90]]

/-- `M[i][k]` of the printed table. -/
def matrixAt (i k : Nat) : Nat := (matrixTable.getD i []).getD k 0

/-- One accumulator update of a plane of integers (R125): entry `j` receives `c` if `l + off` is `j`. -/
def clampedAdd (l j off : Nat) (c y : Int) : Int := if l + off = j then max 0 (min 255 (y + c)) else y

/-- `V` of R123 on an integer plane entry. -/
def blackOrWhite (a : Int) : Int := if a < 129 then 0 else 255

/-- The luminance plane of pass 2 before position `k` is handled, from the luminances `lum` of the image (R120 to
R129): the error of every earlier position has been added, entry by entry, each addition clamped. -/
def planeBefore (divisor : Int) (neighbours : List (Nat × Int)) (lum : Nat → Int) : Nat → Nat → Int
  | 0, j => lum j
  | k + 1, j =>
    neighbours.foldl
      (fun y n => clampedAdd k j n.1
        (Int.fdiv (planeBefore divisor neighbours lum k k -
          blackOrWhite (planeBefore divisor neighbours lum k k)) divisor * n.2) y)
      (planeBefore divisor neighbours lum k j)

/-- How many engine steps an operation takes on an image of `n` pixels (R100, R130, R200). -/
def engineSteps (i : Instr) (n : Nat) : Nat :=
  match i with
  | .gray => n + 1
  | .thresh _ => n + 1
  | .bayer _ => n + 1
  | .fsd => 2 * n + 2
  | .atk => 2 * n + 2

end Sys2Proof.Machine
end

