-- ==== Sys2Proof/Certificates/Slice0/Obligations.lean ====
section
/-! DEFINITION. The statements for the provers, one `def Obligations.<Name> : Prop` each. `UNSPEC` bytes are bytes
that no memory lists (log entry 2): a statement that reads one holds for every byte it may be. -/

open Sys2Proof Sys2Proof.Machine

/-! ### Encoding (30_encoding.md) -/

/-- R75: `encode` is the inverse of `decode`, in both directions, for every operation and every threshold. -/
def Obligations.DecodeAndEncodeAreInverse : Prop :=
  (∀ i : Instr, decode (encode i) = .instr i) ∧ (∀ (w : Word) (i : Instr), decode w = .instr i → encode i = w)

/-- R75: a word decodes to a row of the opcode map exactly when `(word & mask) == match`, with `T = word[16:8]`; a word
that selects no row is illegal. -/
def Obligations.DecodeSelectsByMaskAndMatch : Prop :=
  ∀ w : Word,
    (decode w = .instr .gray ↔ w &&& 0xFFFFFFFF#32 = 0x00000001#32) ∧
    (∀ t, decode w = .instr (.thresh t) ↔ w &&& 0xFFFE00FF#32 = 0x00000002#32 ∧ w.extractLsb' 8 9 = t) ∧
    (∀ t, decode w = .instr (.bayer t) ↔ w &&& 0xFFFE00FF#32 = 0x00000003#32 ∧ w.extractLsb' 8 9 = t) ∧
    (decode w = .instr .fsd ↔ w &&& 0xFFFFFFFF#32 = 0x00000004#32) ∧
    (decode w = .instr .atk ↔ w &&& 0xFFFFFFFF#32 = 0x00000005#32) ∧
    ((∃ why, decode w = .illegal why) ↔
      w &&& 0xFFFFFFFF#32 ≠ 0x00000001#32 ∧ w &&& 0xFFFE00FF#32 ≠ 0x00000002#32 ∧
      w &&& 0xFFFE00FF#32 ≠ 0x00000003#32 ∧ w &&& 0xFFFFFFFF#32 ≠ 0x00000004#32 ∧
      w &&& 0xFFFFFFFF#32 ≠ 0x00000005#32)

/-- R74: which words are illegal, and that writing one while idle with `ERR = 0` raises `ILLEGAL_CMD` and changes
nothing else. -/
def Obligations.IllegalCommandRaisesIllegalCmd : Prop :=
  (∀ w : Word, (∃ why, decode w = .illegal why) ↔
    w.extractLsb' 17 15 ≠ 0 ∨ w.extractLsb' 4 4 ≠ 0 ∨
    (w.extractLsb' 0 4).toNat = 0 ∨ 6 ≤ (w.extractLsb' 0 4).toNat ∨
    (((w.extractLsb' 0 4).toNat = 1 ∨ (w.extractLsb' 0 4).toNat = 4 ∨ (w.extractLsb' 0 4).toNat = 5) ∧
      w.extractLsb' 8 9 ≠ 0)) ∧
  (∀ (s : State) (v : Word) (rest : List Event) (why : Illegal),
    s.pending = .host (.regWrite 0 v) :: rest → s.phase = .idle → s.err = false → decode v = .illegal why →
    step s = .next { s with pending := rest, err := true, cause := 1 })

/-- Sample words of 30_encoding.md R75, written out bit by bit from format `C` of R70. -/
def Obligations.SampleWordsDecode : Prop :=
  decode 0b00000000000000000000000000000001#32 = .instr .gray ∧
  decode 0b00000000000000000100110000000010#32 = .instr (.thresh 76) ∧
  decode 0b00000000000000011111111100000010#32 = .instr (.thresh 511) ∧
  decode 0b00000000000000000010100000000011#32 = .instr (.bayer 40) ∧
  decode 0b00000000000000000000000000000100#32 = .instr .fsd ∧
  decode 0b00000000000000000000000000000101#32 = .instr .atk

/-! ### Luminance and the matrix (40_luminance.md, 10_state.md) -/

/-- R92: the range of `NUM` and of `L = NUM/1000`, where the ends are reached, that `NUM` fits in 18 bits, and the
largest products. -/
def Obligations.LuminanceNumeratorRange : Prop :=
  299 + 587 + 114 = 1000 ∧
  ∀ r g b : Byte,
    lumNum r g b ≤ 255000 ∧ lumNum r g b < 2 ^ 18 ∧
    (0 : ℚ) ≤ (lumNum r g b : ℚ) / 1000 ∧ (lumNum r g b : ℚ) / 1000 ≤ 255 ∧
    (lumNum r g b = 255000 ↔ r = 255 ∧ g = 255 ∧ b = 255) ∧
    (lumNum r g b = 0 ↔ r = 0 ∧ g = 0 ∧ b = 0) ∧
    299 * r.toNat ≤ 76245 ∧ 587 * g.toNat ≤ 149685 ∧ 114 * b.toNat ≤ 29070

/-- R95: `THRESH` and `BAYER` compare the unrounded luminance `L`; for integer thresholds and biases the forms with
`L`, with `NUM` and with `LUM8` agree, and for a threshold that is no integer they need not. -/
def Obligations.ComparisonFormsAgree : Prop :=
  (∀ (t : BitVec 9) (w l : Nat) (r g b : Byte),
    threshOut t r g b = (if (lumNum r g b : ℚ) / 1000 < ((t.toNat : Nat) : ℚ) then 0 else 255) ∧
    bayerOut t w l r g b =
      (if (t.toNat : Int) ≤ ⌊((lumNum r g b : ℚ) / 1000 + ((bias w l : Nat) : ℚ)) / 2⌋ then 255 else 0)) ∧
  (∃ (r g b : Byte) (q : ℚ),
    ¬((lumNum r g b : ℚ) / 1000 < q ↔ (((lum8 r g b).toNat : Nat) : ℚ) < q)) ∧
  ∀ (r g b : Byte) (t m : Nat),
    (((lumNum r g b : ℚ) / 1000 < (t : ℚ)) ↔ lumNum r g b < 1000 * t) ∧
    (lumNum r g b < 1000 * t ↔ (lum8 r g b).toNat < t) ∧
    (⌊((lumNum r g b : ℚ) / 1000 + (m : ℚ)) / 2⌋ = (((lumNum r g b + 1000 * m) / 2000 : Nat) : Int)) ∧
    ((lumNum r g b + 1000 * m) / 2000 = ((lum8 r g b).toNat + m) / 2)

/-- R97: grey is a fixed point. -/
def Obligations.GreyIsAFixedPoint : Prop :=
  ∀ v : Byte, lumNum v v v = 1000 * v.toNat ∧ lum8 v v v = v

/-- R98: `NUM` and `LUM8` are monotone in each channel; one step of a channel adds its weight to `NUM` and at most 1 to
`LUM8`. -/
def Obligations.LuminanceIsMonotone : Prop :=
  (∀ r g b r' g' b' : Byte, r ≤ r' → g ≤ g' → b ≤ b' →
    lumNum r g b ≤ lumNum r' g' b' ∧ lum8 r g b ≤ lum8 r' g' b') ∧
  (∀ r g b c : Byte,
    (c.toNat = r.toNat + 1 → lumNum c g b = lumNum r g b + 299 ∧ (lum8 c g b).toNat ≤ (lum8 r g b).toNat + 1) ∧
    (c.toNat = g.toNat + 1 → lumNum r c b = lumNum r g b + 587 ∧ (lum8 r c b).toNat ≤ (lum8 r g b).toNat + 1) ∧
    (c.toNat = b.toNat + 1 → lumNum r g c = lumNum r g b + 114 ∧ (lum8 r g c).toNat ≤ (lum8 r g b).toNat + 1))

/-- R33, R103: the bias of a position is the printed table's entry with the column's two low bits as first index and
the row's as second; the pattern repeats every 4 columns and every 4 rows; the entries are 15, 30, ..., 240, each
once. -/
def Obligations.BiasIsTheMatrixEntry : Prop :=
  (∀ w l : Nat, bias w l = matrixAt ((l % w) % 4) ((l / w) % 4)) ∧
  (∀ w x y : Nat, x + 4 < w → bias w (y * w + x) = bias w (y * w + (x + 4))) ∧
  (∀ w x y : Nat, x < w → bias w (y * w + x) = bias w ((y + 4) * w + x)) ∧
  (∀ k : Nat, 1 ≤ k → k ≤ 16 →
    ∃ i j, i < 4 ∧ j < 4 ∧ matrixEntry i j = 15 * k ∧
      ∀ i' j', i' < 4 → j' < 4 → matrixEntry i' j' = 15 * k → i' = i ∧ j' = j)

/-- R105: the range of the bias and of `B4`, and the values of `B4` on black and on white pixels. -/
def Obligations.BiasedValueRange : Prop :=
  ∀ (w l : Nat) (r g b : Byte),
    15 ≤ bias w l ∧ bias w l ≤ 240 ∧
    7 ≤ biased (bias w l) r g b ∧ biased (bias w l) r g b ≤ 247 ∧
    biased (bias w l) 0 0 0 = bias w l / 2 ∧
    biased (bias w l) 0 0 0 ∈ [7, 15, 22, 30, 37, 45, 52, 60, 67, 75, 82, 90, 97, 105, 112, 120] ∧
    biased (bias w l) 255 255 255 = (255 + bias w l) / 2 ∧
    biased (bias w l) 255 255 255 ∈
      [135, 142, 150, 157, 165, 172, 180, 187, 195, 202, 210, 217, 225, 232, 240, 247]

/-! ### Command issue (43_host_access.md) -/

/-- R152: an accepted command of each of the five operations: `CMD` takes the word's fields, `DONE` is cleared, `POS`
is 0, `PHASE` is the operation's first phase, and nothing else changes. -/
def Obligations.AcceptanceStartsTheOperation : Prop :=
  ∀ s : State, s.phase = .idle → s.err = false → s.npix ≤ s.maxPixels →
    exec .gray s = .next { s with opc := 0x1, t := 0, done := false, pos := 0, phase := .scan } ∧
    (∀ t, exec (.thresh t) s = .next { s with opc := 0x2, t := t, done := false, pos := 0, phase := .scan }) ∧
    (∀ t, exec (.bayer t) s = .next { s with opc := 0x3, t := t, done := false, pos := 0, phase := .scan }) ∧
    exec .fsd s = .next { s with opc := 0x4, t := 0, done := false, pos := 0, phase := .pass1 } ∧
    exec .atk s = .next { s with opc := 0x5, t := 0, done := false, pos := 0, phase := .pass1 }

/-- R152: a command written while `ERR = 1` is dropped without a fault, and one over the capacity raises `DIM_RANGE`;
neither has any other effect. -/
def Obligations.IdleCommandIsTurnedAway : Prop :=
  ∀ (s : State) (i : Instr), s.phase = .idle →
    (s.err = true → exec i s = .next s) ∧
    (s.err = false → s.maxPixels < s.npix → exec i s = .next { s with err := true, cause := 2 })

/-- R152, R174: the four checks of a write to `CMD`, in their order, and the acceptance. -/
def Obligations.CommandWriteChecksInOrder : Prop :=
  ∀ (s : State) (v : Word) (rest : List Event), s.pending = .host (.regWrite 0 v) :: rest →
    (s.phase ≠ .idle → s.err = false → step s = .next { s with pending := rest, err := true, cause := 3 }) ∧
    (s.phase ≠ .idle → s.err = true → step s = .next { s with pending := rest }) ∧
    (s.phase = .idle → s.err = true → step s = .next { s with pending := rest }) ∧
    (s.phase = .idle → s.err = false → (∃ why, decode v = .illegal why) →
      step s = .next { s with pending := rest, err := true, cause := 1 }) ∧
    (s.phase = .idle → s.err = false → (∃ i, decode v = .instr i) → s.maxPixels < s.npix →
      step s = .next { s with pending := rest, err := true, cause := 2 }) ∧
    (s.phase = .idle → s.err = false → (∃ i, decode v = .instr i) → s.npix ≤ s.maxPixels →
      step s = .next { s with
        pending := rest, opc := v.extractLsb' 0 4, t := v.extractLsb' 8 9, done := false, pos := 0
        phase := if (v.extractLsb' 0 4).toNat ≤ 3 then .scan else .pass1 })

/-! ### The step and the decoded command -/

/-- R63: a step runs the decoded command: the word the host writes while the block can take it, and at every engine
turn of a busy block the word held in `CMD`; the step adds the removal of the served schedule entry. -/
def Obligations.StepRunsTheDecodedCommand : Prop :=
  (∀ (s : State) (v : Word) (i : Instr) (rest : List Event),
    s.pending = .host (.regWrite 0 v) :: rest → s.phase = .idle → s.err = false → decode v = .instr i →
    step s = exec i { s with pending := rest }) ∧
  (∀ (s : State) (i : Instr), s.pending = [] → s.phase ≠ .idle → decode s.cmdWord = .instr i → step s = exec i s) ∧
  (∀ (s : State) (i : Instr) (rest : List Event),
    s.pending = .engine :: rest → s.phase ≠ .idle → decode s.cmdWord = .instr i →
    step s = exec i { s with pending := rest })

/-- The word offered by `withFetchWord` (log entry 5) is run by the very next step. -/
def Obligations.OfferedWordIsRunNext : Prop :=
  ∀ (s : State) (i : Instr),
    step (s.withFetchWord 32 (encode i).toNat) = exec i { s with phase := .idle, err := false, cause := 0 }

/-- R191: an idle block with no host access pending does nothing. -/
def Obligations.IdleBlockDoesNothing : Prop :=
  ∀ s : State, s.phase = .idle →
    (s.pending = [] → step s = .next s) ∧
    (∀ rest, s.pending = .engine :: rest → step s = .next { s with pending := rest })

/-! ### Pointwise operations (41_pointwise.md) -/

/-- R101: a pixel step of `GRAY` stores the luminance, computed from the bytes read, to the R, G and B bytes of the
pixel at `POS`, and changes nothing else but `POS`. -/
def Obligations.GrayPixelStep : Prop :=
  ∀ s : State, s.phase = .scan → s.pos < s.npix →
    ∃ (r g b v : Byte) (t : State),
      s.pix.MayRead (4 * s.pos) r ∧ s.pix.MayRead (4 * s.pos + 1) g ∧ s.pix.MayRead (4 * s.pos + 2) b ∧
      v.toNat = (299 * r.toNat + 587 * g.toNat + 114 * b.toNat) / 1000 ∧
      exec .gray s = .next t ∧ s.pix.PixelSet s.pos v t.pix ∧
      t = { s with pix := t.pix, pos := s.pos + 1, draws := t.draws }

/-- R102: a pixel step of `THRESH T`: black where the luminance lies below `T`, else white. -/
def Obligations.ThreshPixelStep : Prop :=
  ∀ (s : State) (thr : BitVec 9), s.phase = .scan → s.pos < s.npix →
    ∃ (r g b : Byte) (t : State),
      s.pix.MayRead (4 * s.pos) r ∧ s.pix.MayRead (4 * s.pos + 1) g ∧ s.pix.MayRead (4 * s.pos + 2) b ∧
      exec (.thresh thr) s = .next t ∧
      s.pix.PixelSet s.pos
        (if 299 * r.toNat + 587 * g.toNat + 114 * b.toNat < 1000 * thr.toNat then 0 else 255) t.pix ∧
      t = { s with pix := t.pix, pos := s.pos + 1, draws := t.draws }

/-- R104, R103: a pixel step of `BAYER T`: white where the mean of luminance and bias reaches `T`, else black. -/
def Obligations.BayerPixelStep : Prop :=
  ∀ (s : State) (thr : BitVec 9), s.phase = .scan → s.pos < s.npix →
    ∃ (r g b : Byte) (t : State),
      s.pix.MayRead (4 * s.pos) r ∧ s.pix.MayRead (4 * s.pos + 1) g ∧ s.pix.MayRead (4 * s.pos + 2) b ∧
      exec (.bayer thr) s = .next t ∧
      s.pix.PixelSet s.pos
        (if thr.toNat ≤ (299 * r.toNat + 587 * g.toNat + 114 * b.toNat +
            1000 * matrixAt ((s.pos % s.width.toNat) % 4) ((s.pos / s.width.toNat) % 4)) / 2000
          then 255 else 0) t.pix ∧
      t = { s with pix := t.pix, pos := s.pos + 1, draws := t.draws }

/-- R100: the completion step of the three pointwise operations. That `POS` then stays at `NPIX` is the model's choice
(log entry 8): R29 leaves its value while idle open. -/
def Obligations.PointwiseCompletionStep : Prop :=
  ∀ s : State, s.phase = .scan → s.pos = s.npix →
    exec .gray s = .next { s with phase := .idle, done := true } ∧
    (∀ t, exec (.thresh t) s = .next { s with phase := .idle, done := true }) ∧
    (∀ t, exec (.bayer t) s = .next { s with phase := .idle, done := true })

/-- R108: saturation of the threshold, for every step of a scan. -/
def Obligations.ThresholdSaturates : Prop :=
  (∀ (t : BitVec 9) (r g b : Byte), 256 ≤ t.toNat → threshOut t r g b = 0) ∧
  (∀ (t : BitVec 9) (w l : Nat) (r g b : Byte), 248 ≤ t.toNat → bayerOut t w l r g b = 0) ∧
  (∀ (t : BitVec 9) (w l : Nat) (r g b : Byte), t.toNat ≤ 7 → bayerOut t w l r g b = 255) ∧
  (∀ (s : State) (t : BitVec 9), s.phase = .scan →
    (256 ≤ t.toNat → exec (.thresh t) s = exec (.thresh 256) s) ∧
    (248 ≤ t.toNat → exec (.bayer t) s = exec (.bayer 248) s) ∧
    (t.toNat ≤ 7 → exec (.bayer t) s = exec (.bayer 0) s))

/-- The whole of a `GRAY` operation (R100, R101, R109): from its acceptance it takes exactly `NPIX + 1` engine steps;
then the block is idle with `DONE = 1`, each pixel's R, G, B are its luminance, and every other byte is as before. That
`POS` stays at `NPIX` is the model's choice (log entry 8). -/
def Obligations.GrayRunReplacesEveryPixel : Prop :=
  ∀ s : State, s.phase = .scan → s.pos = 0 → decode s.cmdWord = .instr .gray →
    (∀ k, k ≤ s.npix → ∃ u, runEngine k s = .next u ∧ u.phase = .scan) ∧
    ∃ t, runEngine (s.npix + 1) s = .next t ∧
      t = { s with phase := .idle, done := true, pos := s.npix, pending := [], pix := t.pix, draws := t.draws } ∧
      (∀ l r g b, l < s.npix → s.pix.read (4 * l) = some r → s.pix.read (4 * l + 1) = some g →
        s.pix.read (4 * l + 2) = some b →
        t.pix.read (4 * l) = some (lum8 r g b) ∧ t.pix.read (4 * l + 1) = some (lum8 r g b) ∧
        t.pix.read (4 * l + 2) = some (lum8 r g b)) ∧
      (∀ a, a % 4 = 3 ∨ 4 * s.npix ≤ a → t.pix.read a = s.pix.read a)

/-- The whole of a `THRESH` or `BAYER` operation (R100, R102, R104, R109): from its acceptance it takes exactly
`NPIX + 1` engine steps; then each pixel is black or white and every other byte is as before. That `POS` stays at
`NPIX` is the model's choice (log entry 8). -/
def Obligations.ThreshAndBayerRunsBinariseEveryPixel : Prop :=
  ∀ (s : State) (thr : BitVec 9), s.phase = .scan → s.pos = 0 →
    (decode s.cmdWord = .instr (.thresh thr) →
      (∀ k, k ≤ s.npix → ∃ u, runEngine k s = .next u ∧ u.phase = .scan) ∧
      ∃ t, runEngine (s.npix + 1) s = .next t ∧
        t = { s with phase := .idle, done := true, pos := s.npix, pending := [], pix := t.pix, draws := t.draws } ∧
        (∀ l r g b, l < s.npix → s.pix.read (4 * l) = some r → s.pix.read (4 * l + 1) = some g →
          s.pix.read (4 * l + 2) = some b → ∀ k, k < 3 →
          t.pix.read (4 * l + k) = some (if lumNum r g b < 1000 * thr.toNat then 0 else 255)) ∧
        (∀ a, a % 4 = 3 ∨ 4 * s.npix ≤ a → t.pix.read a = s.pix.read a)) ∧
    (decode s.cmdWord = .instr (.bayer thr) →
      (∀ k, k ≤ s.npix → ∃ u, runEngine k s = .next u ∧ u.phase = .scan) ∧
      ∃ t, runEngine (s.npix + 1) s = .next t ∧
        t = { s with phase := .idle, done := true, pos := s.npix, pending := [], pix := t.pix, draws := t.draws } ∧
        (∀ l r g b, l < s.npix → s.pix.read (4 * l) = some r → s.pix.read (4 * l + 1) = some g →
          s.pix.read (4 * l + 2) = some b → ∀ k, k < 3 →
          t.pix.read (4 * l + k) =
            some (if thr.toNat ≤ (lumNum r g b +
                1000 * matrixAt ((l % s.width.toNat) % 4) ((l / s.width.toNat) % 4)) / 2000 then 255 else 0)) ∧
        (∀ a, a % 4 = 3 ∨ 4 * s.npix ≤ a → t.pix.read a = s.pix.read a))

/-- R107 for `GRAY` and R110 for `THRESH` and `BAYER`: run a second time on its own result, a pointwise operation
changes no byte of `PIX`; the bytes of the image may hold anything, or be `UNSPEC`, before the first run. -/
def Obligations.PointwiseRunsAreIdempotent : Prop :=
  ∀ (s : State) (i : Instr), s.phase = .scan → s.pos = 0 → decode s.cmdWord = .instr i →
    (i.opcode = 1 ∨ i.opcode = 2 ∨ i.opcode = 3) →
    ∃ t u, runEngine (s.npix + 1) s = .next t ∧
      runEngine (s.npix + 1) { t with phase := .scan, pos := 0, done := false } = .next u ∧
      ∀ a, u.pix.read a = t.pix.read a

/-! ### Error diffusion (42_error_diffusion.md) -/

/-- R121: a pixel step of pass 1, of `FSD` and of `ATK`: the luminance of the pixel at `POS` goes to its plane entry;
`PIX` and every other entry are unchanged. -/
def Obligations.Pass1PixelStep : Prop :=
  ∀ (s : State) (i : Instr), i = .fsd ∨ i = .atk → s.phase = .pass1 → s.pos < s.npix →
    ∃ (r g b v : Byte) (t : State),
      s.pix.MayRead (4 * s.pos) r ∧ s.pix.MayRead (4 * s.pos + 1) g ∧ s.pix.MayRead (4 * s.pos + 2) b ∧
      v.toNat = (299 * r.toNat + 587 * g.toNat + 114 * b.toNat) / 1000 ∧
      exec i s = .next t ∧ t.lum.read s.pos = some v ∧
      (∀ j, j ≠ s.pos → t.lum.read j = s.lum.read j) ∧
      t = { s with lum := t.lum, pos := s.pos + 1, draws := t.draws }

/-- R122: the change of pass. -/
def Obligations.ChangeOfPass : Prop :=
  ∀ (s : State) (i : Instr), i = .fsd ∨ i = .atk → s.phase = .pass1 → s.pos = s.npix →
    ∃ t, exec i s = .next t ∧ t = { s with phase := .pass2, pos := 0 } ∧ t.busy = true ∧ t.done = s.done

/-- R124: the error quotient of both operations, over all 256 plane entries: the floor, the ranges, the table, the
arithmetic shift of the 9-bit error, and two values that a truncating division would get wrong. -/
def Obligations.ErrorQuotientTable : Prop :=
  fsdDivisor = 16 ∧ atkDivisor = 8 ∧
  (Int.tdiv (129 - 255) 16 = -7 ∧ errorQuotient 16 129 = -8 ∧ Int.tdiv (242 - 255) 16 = 0 ∧
    errorQuotient 16 242 = -1) ∧
  ∀ a : Byte,
    binarise a = (if a.toNat ≤ 128 then 0 else 255) ∧
    (∀ d : Int, 0 < d → errorQuotient d a * d ≤ (a.toNat : Int) - (binarise a).toNat ∧
      (a.toNat : Int) - (binarise a).toNat < (errorQuotient d a + 1) * d) ∧
    (a.toNat ≤ 128 → errorQuotient 16 a = (a.toNat / 16 : Nat) ∧ errorQuotient 8 a = (a.toNat / 8 : Nat) ∧
      errorQuotient 16 a ≤ 8 ∧ errorQuotient 8 a ≤ 16) ∧
    (129 ≤ a.toNat → -8 ≤ errorQuotient 16 a ∧ errorQuotient 16 a ≤ 0 ∧ -16 ≤ errorQuotient 8 a ∧
      errorQuotient 8 a ≤ 0) ∧
    (∀ k : Nat, 1 ≤ k → k ≤ 7 → 255 ≤ a.toNat + 16 * k → a.toNat + 16 * k ≤ 270 → errorQuotient 16 a = -(k : Int)) ∧
    (∀ k : Nat, 1 ≤ k → k ≤ 15 → 255 ≤ a.toNat + 8 * k → a.toNat + 8 * k ≤ 262 → errorQuotient 8 a = -(k : Int)) ∧
    (129 ≤ a.toNat → a.toNat ≤ 142 → errorQuotient 16 a = -8) ∧
    (129 ≤ a.toNat → a.toNat ≤ 134 → errorQuotient 8 a = -16) ∧
    (a = 255 → errorQuotient 16 a = 0 ∧ errorQuotient 8 a = 0) ∧
    (let d : BitVec 9 := BitVec.ofInt 9 ((a.toNat : Int) - (binarise a).toNat)
     d.toInt = (a.toNat : Int) - (binarise a).toNat ∧
     errorQuotient 16 a = (d.sshiftRight 4).toInt ∧ errorQuotient 8 a = (d.sshiftRight 3).toInt)

/-- R125: the accumulator: inside the plane a clamped addition to one entry, outside it nothing at all. -/
def Obligations.AccumulatorClampsOrDrops : Prop :=
  (∀ (s : State) (j : Nat) (c : Int) (x : Byte), j < s.npix → s.lum.read j = some x →
    ∃ z : Byte, (s.acc j c).lum.read j = some z ∧ (z.toNat : Int) = max 0 (min 255 ((x.toNat : Int) + c)) ∧
      (∀ k, k ≠ j → (s.acc j c).lum.read k = s.lum.read k) ∧
      s.acc j c = { s with lum := (s.acc j c).lum, draws := (s.acc j c).draws }) ∧
  (∀ (s : State) (j : Nat) (c : Int), s.npix ≤ j → s.acc j c = s) ∧
  (∀ (a x : Byte) (off : Nat × Int) (w : Nat),
    (off ∈ fsdNeighbours w → -56 ≤ errorQuotient fsdDivisor a * off.2 ∧ errorQuotient fsdDivisor a * off.2 ≤ 56 ∧
      -56 ≤ (x.toNat : Int) + errorQuotient fsdDivisor a * off.2 ∧
      (x.toNat : Int) + errorQuotient fsdDivisor a * off.2 ≤ 311) ∧
    (off ∈ atkNeighbours w → -16 ≤ errorQuotient atkDivisor a * off.2 ∧ errorQuotient atkDivisor a * off.2 ≤ 16))

/-- R133: the contributions of one position have the sign of `E`; contributions of one sign commute and may be summed
first; those of different signs do not. -/
def Obligations.ContributionsOfOnePositionCommute : Prop :=
  (∀ (w : Nat) (n : Nat × Int) (e : Int), n ∈ fsdNeighbours w ∨ n ∈ atkNeighbours w →
    (0 ≤ e → 0 ≤ e * n.2) ∧ (e ≤ 0 → e * n.2 ≤ 0)) ∧
  (∀ (a : Byte) (c d : Int), (0 ≤ c ∧ 0 ≤ d) ∨ (c ≤ 0 ∧ d ≤ 0) →
    clamp8 ((clamp8 ((a.toNat : Int) + c)).toNat + d) = clamp8 ((a.toNat : Int) + c + d)) ∧
  (∀ (s : State) (j k : Nat) (c d : Int), (0 ≤ c ∧ 0 ≤ d) ∨ (c ≤ 0 ∧ d ≤ 0) → s.lum.wf → s.PlaneFilled s.npix →
    (s.acc j c).acc k d = (s.acc k d).acc j c) ∧
  clamp8 ((clamp8 (250 + 56)).toNat - 20) = 235 ∧ clamp8 (250 + 56 - 20) = 255

/-- R128 with R123 to R126: a pixel step of pass 2 of `FSD`. `A` is what `LUM[POS]` reads, `V` goes to the pixel's
R, G, B, and each plane entry receives its contributions in table order, each addition clamped; entries outside the
plane and the four targets are unchanged. -/
def Obligations.FsdPass2PixelStep : Prop :=
  ∀ s : State, s.phase = .pass2 → s.pos < s.npix →
    ∃ (a : Byte) (e : Int) (t : State),
      s.lum.MayRead s.pos a ∧ e = Int.fdiv ((a.toNat : Int) - (if a.toNat < 129 then 0 else 255)) 16 ∧
      exec .fsd s = .next t ∧ s.pix.PixelSet s.pos (if a.toNat < 129 then 0 else 255) t.pix ∧
      (∀ j x, j < s.npix → s.lum.read j = some x → ∃ z : Byte, t.lum.read j = some z ∧
        (z.toNat : Int) =
          clampedAdd s.pos j (s.width.toNat + 1) (e * 1)
            (clampedAdd s.pos j s.width.toNat (e * 5)
              (clampedAdd s.pos j (s.width.toNat - 1) (e * 3)
                (clampedAdd s.pos j 1 (e * 7) x.toNat)))) ∧
      (∀ j, s.npix ≤ j → t.lum.read j = s.lum.read j) ∧
      (∀ j, j ∉ [s.pos + 1, s.pos + (s.width.toNat - 1), s.pos + s.width.toNat, s.pos + (s.width.toNat + 1)] →
        t.lum.read j = s.lum.read j) ∧
      t = { s with pix := t.pix, lum := t.lum, pos := s.pos + 1, draws := t.draws }

/-- R129 with R123 to R125 and R127: a pixel step of pass 2 of `ATK`. -/
def Obligations.AtkPass2PixelStep : Prop :=
  ∀ s : State, s.phase = .pass2 → s.pos < s.npix →
    ∃ (a : Byte) (e : Int) (t : State),
      s.lum.MayRead s.pos a ∧ e = Int.fdiv ((a.toNat : Int) - (if a.toNat < 129 then 0 else 255)) 8 ∧
      exec .atk s = .next t ∧ s.pix.PixelSet s.pos (if a.toNat < 129 then 0 else 255) t.pix ∧
      (∀ j x, j < s.npix → s.lum.read j = some x → ∃ z : Byte, t.lum.read j = some z ∧
        (z.toNat : Int) =
          clampedAdd s.pos j (2 * s.width.toNat) e
            (clampedAdd s.pos j (s.width.toNat + 1) e
              (clampedAdd s.pos j s.width.toNat e
                (clampedAdd s.pos j (s.width.toNat - 1) e
                  (clampedAdd s.pos j 2 e (clampedAdd s.pos j 1 e x.toNat)))))) ∧
      (∀ j, s.npix ≤ j → t.lum.read j = s.lum.read j) ∧
      (∀ j, j ∉ [s.pos + 1, s.pos + 2, s.pos + (s.width.toNat - 1), s.pos + s.width.toNat,
          s.pos + (s.width.toNat + 1), s.pos + 2 * s.width.toNat] → t.lum.read j = s.lum.read j) ∧
      t = { s with pix := t.pix, lum := t.lum, pos := s.pos + 1, draws := t.draws }

/-- R130: the completion step of pass 2. That `POS` then stays at `NPIX` and that `LUM` keeps its contents are the
model's choices (log entries 8 and 9): R29 and R35 leave both open while idle. -/
def Obligations.DiffusionCompletionStep : Prop :=
  ∀ s : State, s.phase = .pass2 → s.pos = s.npix →
    exec .fsd s = .next { s with phase := .idle, done := true } ∧
    exec .atk s = .next { s with phase := .idle, done := true }

/-- R134: diffusion is forward only: pass 2 changes no entry before `POS`, and the entry at `POS` only when `W = 1`. -/
def Obligations.DiffusionIsForwardOnly : Prop :=
  ∀ (s : State) (i : Instr), i = .fsd ∨ i = .atk → s.phase = .pass2 → s.pos < s.npix →
    ∃ t, exec i s = .next t ∧
      (∀ j, j < s.pos → t.lum.read j = s.lum.read j) ∧
      (s.width.toNat ≠ 1 → t.lum.read s.pos = s.lum.read s.pos)

/-- The whole of an `FSD` or `ATK` operation on an image whose R, G, B bytes hold values (R120 to R130, R136): from
its acceptance it takes exactly `2 * NPIX + 2` engine steps, and the pixels become black or white as the plane
function `planeBefore`, written without the machine, says; every other byte of `PIX` is as before, whatever `LUM`
held. That `POS` stays at `NPIX` is the model's choice (log entry 8). -/
def Obligations.DiffusionRunsFollowThePlane : Prop :=
  ∀ (s : State) (lum : Nat → Int), s.phase = .pass1 → s.pos = 0 →
    (∀ l, l < s.npix → ∃ r g b, s.pix.read (4 * l) = some r ∧ s.pix.read (4 * l + 1) = some g ∧
      s.pix.read (4 * l + 2) = some b ∧ lum l = ((299 * r.toNat + 587 * g.toNat + 114 * b.toNat) / 1000 : Nat)) →
    (decode s.cmdWord = .instr .fsd →
      (∀ k, k ≤ 2 * s.npix + 1 → ∃ u, runEngine k s = .next u ∧ u.phase ≠ .idle) ∧
      ∃ t, runEngine (2 * s.npix + 2) s = .next t ∧
        t = { s with phase := .idle, done := true, pos := s.npix, pending := []
                     pix := t.pix, lum := t.lum, draws := t.draws } ∧
        (∀ l, l < s.npix → ∀ k, k < 3 → ∃ v : Byte, t.pix.read (4 * l + k) = some v ∧
          (v.toNat : Int) = blackOrWhite (planeBefore 16
            [(1, 7), (s.width.toNat - 1, 3), (s.width.toNat, 5), (s.width.toNat + 1, 1)] lum l l)) ∧
        (∀ a, a % 4 = 3 ∨ 4 * s.npix ≤ a → t.pix.read a = s.pix.read a)) ∧
    (decode s.cmdWord = .instr .atk →
      (∀ k, k ≤ 2 * s.npix + 1 → ∃ u, runEngine k s = .next u ∧ u.phase ≠ .idle) ∧
      ∃ t, runEngine (2 * s.npix + 2) s = .next t ∧
        t = { s with phase := .idle, done := true, pos := s.npix, pending := []
                     pix := t.pix, lum := t.lum, draws := t.draws } ∧
        (∀ l, l < s.npix → ∀ k, k < 3 → ∃ v : Byte, t.pix.read (4 * l + k) = some v ∧
          (v.toNat : Int) = blackOrWhite (planeBefore 8
            [(1, 1), (2, 1), (s.width.toNat - 1, 1), (s.width.toNat, 1), (s.width.toNat + 1, 1),
              (2 * s.width.toNat, 1)] lum l l)) ∧
        (∀ a, a % 4 = 3 ∨ 4 * s.npix ≤ a → t.pix.read a = s.pix.read a))

/-! ### Host accesses (43_host_access.md) -/

/-- R150: what each register read returns; a read changes no state of the block. -/
def Obligations.RegReadReturnsTheRegister : Prop :=
  ∀ (s : State) (rest : List Event) (idx : Nat), s.pending = .host (.regRead idx) :: rest →
    (idx = 0 → step s = .next { s with
      pending := rest, replies := s.replies ++ [.reg (BitVec.ofNat 32 (s.t.toNat * 256 + s.opc.toNat))] }) ∧
    (idx = 1 → step s = .next { s with
      pending := rest
      replies := s.replies ++ [.reg (BitVec.ofNat 32 ((if s.phase = .idle then 0 else 1) + 2 * s.done.toNat +
        4 * s.err.toNat + 16 * s.cause.toNat))] }) ∧
    (idx = 2 → step s = .next { s with
      pending := rest, replies := s.replies ++ [.reg (BitVec.ofNat 32 s.width.toNat)] }) ∧
    (idx = 3 → step s = .next { s with
      pending := rest, replies := s.replies ++ [.reg (BitVec.ofNat 32 s.height.toNat)] })

/-- R151: a write to `WIDTH` or `HEIGHT`: the low 16 bits while idle, whatever `ERR` is; dropped with `BUSY_WRITE`
while busy. -/
def Obligations.DimensionWrite : Prop :=
  ∀ (s : State) (v : Word) (rest : List Event),
    (s.phase = .idle → s.pending = .host (.regWrite 2 v) :: rest →
      step s = .next { s with pending := rest, width := BitVec.ofNat 16 v.toNat }) ∧
    (s.phase = .idle → s.pending = .host (.regWrite 3 v) :: rest →
      step s = .next { s with pending := rest, height := BitVec.ofNat 16 v.toNat }) ∧
    (s.phase ≠ .idle → s.pending = .host (.regWrite 2 v) :: rest ∨ s.pending = .host (.regWrite 3 v) :: rest →
      step s = .next { s with
        pending := rest, err := true, cause := if s.err then s.cause else 3 })

/-- R153: a write to `STATUS`, busy or not. -/
def Obligations.StatusWriteOneToClear : Prop :=
  ∀ (s : State) (v : Word) (rest : List Event), s.pending = .host (.regWrite 1 v) :: rest →
    step s = .next { s with
      pending := rest
      done := s.done && !v.getLsbD 1
      err := s.err && !v.getLsbD 2
      cause := if v.getLsbD 2 then 0 else s.cause }

/-- R154: a pixel read while idle returns the byte held, or some byte where it is `UNSPEC`; while busy it returns some
byte and raises `BUF_OWNED`; an offset outside the memory is refused. Only the reply, the model's draw count and,
through the fault, `ERR` and `CAUSE` change. -/
def Obligations.PixelRead : Prop :=
  ∀ (s : State) (off : Nat) (rest : List Event), s.pending = .host (.pixRead off) :: rest →
    (4 * s.maxPixels ≤ off → step s = .refused .pixelOffset) ∧
    (off < 4 * s.maxPixels → s.phase = .idle → ∃ (b : Byte) (n : Nat), s.pix.MayRead off b ∧
      step s = .next { s with pending := rest, replies := s.replies ++ [.pix b], draws := n }) ∧
    (off < 4 * s.maxPixels → s.phase ≠ .idle → ∃ (b : Byte) (n : Nat),
      step s = .next { s with
        pending := rest, replies := s.replies ++ [.pix b], draws := n
        err := true, cause := if s.err then s.cause else 4 })

/-- R155: a pixel write while idle stores one byte; while busy it is dropped and raises `BUF_OWNED`; an offset outside
the memory is refused. -/
def Obligations.PixelWrite : Prop :=
  ∀ (s : State) (off : Nat) (b : Byte) (rest : List Event), s.pending = .host (.pixWrite off b) :: rest →
    (4 * s.maxPixels ≤ off → step s = .refused .pixelOffset) ∧
    (off < 4 * s.maxPixels → s.phase = .idle → ∃ t, step s = .next t ∧ t.pix.read off = some b ∧
      (∀ a, a ≠ off → t.pix.read a = s.pix.read a) ∧ t = { s with pending := rest, pix := t.pix }) ∧
    (off < 4 * s.maxPixels → s.phase ≠ .idle → step s = .next { s with
      pending := rest, err := true, cause := if s.err then s.cause else 4 })

/-- R154, R155: what the host writes it reads back: a write and a read of the same byte while idle. -/
def Obligations.PixelWriteThenRead : Prop :=
  ∀ (s : State) (off a : Nat) (b x : Byte),
    s.pending = [.host (.pixWrite off b), .host (.pixRead a)] → s.phase = .idle → off < 4 * s.maxPixels →
    a < 4 * s.maxPixels → (a ≠ off → s.pix.read a = some x) →
    ∃ t, runSteps 2 s = .next t ∧ t.replies = s.replies ++ [.pix (if a = off then b else x)]

/-- R156, R154, R155, R55: a step is refused exactly when the next schedule entry is an access outside the
interface. -/
def Obligations.RefusedExactlyOutsideTheInterface : Prop :=
  ∀ s : State, (∃ r, step s = .refused r) ↔
    ∃ a rest, s.pending = .host a :: rest ∧ a.Outside s.maxPixels

/-- R55, R59: on a byte-addressed bus register `i` is at byte offset `4 * i`, with naturally aligned 4-byte accesses. -/
def Obligations.BusAccessNamesARegister : Prop :=
  ∀ (s : State) (off size : Nat) (v : Word),
    (size = 4 → off % 4 = 0 →
      hostAccess (.busRead off size) s = hostAccess (.regRead (off / 4)) s ∧
      hostAccess (.busWrite off size v) s = hostAccess (.regWrite (off / 4) v) s) ∧
    (¬(size = 4 ∧ off % 4 = 0) →
      hostAccess (.busRead off size) s = .refused .partialRegisterAccess ∧
      hostAccess (.busWrite off size v) s = .refused .partialRegisterAccess)

/-- R60, R157: no host access can influence a running operation: while busy it changes at most flags, replies and the
draw count. -/
def Obligations.HostCannotDisturbARunningOperation : Prop :=
  ∀ (s t : State) (a : Access), s.phase ≠ .idle → hostAccess a s = .next t →
    t = { s with done := t.done, err := t.err, cause := t.cause, replies := t.replies, draws := t.draws } ∧
    (t.done = true → s.done = true)

/-- R77, R78: the command statements and the eight pseudo-statements of the host script expand to the accesses the
rules list. `WAIT` is one read of `STATUS` and then, for each gap, that many engine turns and another read: the gaps,
and that their list decides where the loop ends, are the model's form of it (log entry 14). -/
def Obligations.ScriptExpansions : Prop :=
  (∀ w h : Word, (Stmt.dim w h).events = (Stmt.wr .width w).events ++ (Stmt.wr .height h).events) ∧
  (∀ (off : Nat) (bytes : List Byte), (Stmt.load off bytes).events.length = bytes.length ∧
    ∀ (k : Nat) (b : Byte), bytes[k]? = some b → (Stmt.load off bytes).events[k]? = some (.host (.pixWrite (off + k) b))) ∧
  (∀ (l : Nat) (r g b a : Byte), (Stmt.pixel l r g b a).events = (Stmt.load (4 * l) [r, g, b, a]).events ∧
    (Stmt.pixel l r g b a).events =
    (Stmt.pixw (4 * l) r).events ++ (Stmt.pixw (4 * l + 1) g).events ++ (Stmt.pixw (4 * l + 2) b).events ++
      (Stmt.pixw (4 * l + 3) a).events) ∧
  (∀ off n : Nat, (Stmt.dump off n).events.length = n ∧
    ∀ k, k < n → (Stmt.dump off n).events[k]? = some (.host (.pixRead (off + k)))) ∧
  (∀ gaps : List Nat, (Stmt.wait gaps).events =
    (Stmt.rd .status).events ++ gaps.flatMap (fun k => List.replicate k Event.engine ++ (Stmt.rd .status).events)) ∧
  (∀ (i : Instr) (gaps : List Nat), (Stmt.call i gaps).events = (Stmt.command i).events ++ (Stmt.wait gaps).events) ∧
  (∀ t : BitVec 9,
    (Stmt.command (.thresh t)).events = [.host (.regWrite 0 (BitVec.ofNat 32 (0x00000002 + 256 * t.toNat)))] ∧
    (Stmt.command (.bayer t)).events = [.host (.regWrite 0 (BitVec.ofNat 32 (0x00000003 + 256 * t.toNat)))]) ∧
  ((Stmt.command .gray).events = [.host (.regWrite 0 0x00000001)] ∧
    (Stmt.command .fsd).events = [.host (.regWrite 0 0x00000004)] ∧
    (Stmt.command .atk).events = [.host (.regWrite 0 0x00000005)]) ∧
  (Stmt.clrDone.events = (Stmt.wr .status 0x2).events ∧ Stmt.clrErr.events = (Stmt.wr .status 0x4).events)

/-! ### Faults (60_exceptions.md) -/

/-- R175, R171, R177, R172: taking a fault sets `ERR` and the cause's code if `ERR` was 0, changes nothing if it was 1,
and the wire `err` follows. -/
def Obligations.FaultEntryChangesOnlyErrAndCause : Prop :=
  ∀ (s : State) (c : Cause),
    (s.err = false → s.raise c = { s with err := true, cause := c.code }) ∧
    (s.err = true → s.raise c = s) ∧
    (s.raise c).errWire = true ∧
    (c.code.toNat = match c with | .illegalCmd => 1 | .dimRange => 2 | .busyWrite => 3 | .bufOwned => 4)

/-- R27, R174: over any step, a recorded cause stays until the host writes 1 to bit 2 of `STATUS` or resets, and a
fault is recorded only by a host access, with one of the four codes. -/
def Obligations.FirstCauseIsKept : Prop :=
  ∀ s t : State, step s = .next t →
    (s.err = true → (t.err = true ∧ t.cause = s.cause) ∨
      ∃ e rest, s.pending = e :: rest ∧ (e = .reset ∨ ∃ v, e.WritesRegister 1 v ∧ v.getLsbD 2 = true)) ∧
    (s.err = false → t.err = true → (∃ a rest, s.pending = .host a :: rest) ∧
      1 ≤ t.cause.toNat ∧ t.cause.toNat ≤ 4)

/-- R181: no engine step writes `ERR`, `CAUSE` or the operation's operands, and none reads `ERR` or `CAUSE`. -/
def Obligations.EngineStepsIgnoreFaults : Prop :=
  ∀ (s : State) (i : Instr), s.phase ≠ .idle →
    (∀ t, exec i s = .next t →
      t.err = s.err ∧ t.cause = s.cause ∧ t.opc = s.opc ∧ t.t = s.t ∧ t.width = s.width ∧ t.height = s.height ∧
      t.maxPixels = s.maxPixels ∧ t.pending = s.pending ∧ t.replies = s.replies) ∧
    (∀ (e : Bool) (c : BitVec 4) (t : State), exec i s = .next t →
      exec i { s with err := e, cause := c } = .next { t with err := e, cause := c })

/-- R56, R52: no transition of an operation changes an alpha byte or a byte of `PIX` beyond the image. -/
def Obligations.AlphaAndBytesBeyondTheImageAreUntouched : Prop :=
  ∀ (s t : State) (i : Instr), exec i s = .next t →
    ∀ a, a % 4 = 3 ∨ 4 * s.npix ≤ a → t.pix.read a = s.pix.read a

/-- The model's own stop (log entry 7, R41(c)): an operation has no step in a phase of the other kind. -/
def Obligations.NoStepInAPhaseOfTheOtherKind : Prop :=
  ∀ s : State,
    (s.phase = .pass1 ∨ s.phase = .pass2 →
      exec .gray s = .fault .noStepInPhase ∧ (∀ t, exec (.thresh t) s = .fault .noStepInPhase) ∧
      ∀ t, exec (.bayer t) s = .fault .noStepInPhase) ∧
    (s.phase = .scan → exec .fsd s = .fault .noStepInPhase ∧ exec .atk s = .fault .noStepInPhase)

/-! ### Reset, flags and phases over every step -/

/-- R191, R192: the reset transition. A byte that becomes `UNSPEC` is one that `PIX` or `LUM` no longer holds. -/
def Obligations.ResetTransition : Prop :=
  ∀ (s : State) (rest : List Event), s.pending = .reset :: rest →
    ∃ t, step s = .next t ∧
      t.cmdWord = 0 ∧ t.statusWord = 0 ∧ t.widthWord = 0 ∧ t.heightWord = 0 ∧ t.phase = .idle ∧ t.pos = 0 ∧
      (∀ j, t.lum.read j = none) ∧
      (s.phase = .idle → ∀ a, t.pix.read a = s.pix.read a) ∧
      (s.phase ≠ .idle → ∀ a, (a < 4 * s.npix ∧ a % 4 ≠ 3 → t.pix.read a = none) ∧
        (4 * s.npix ≤ a ∨ a % 4 = 3 → t.pix.read a = s.pix.read a)) ∧
      t.maxPixels = s.maxPixels ∧ t.pending = rest ∧ t.replies = s.replies

/-- R38: the state after reset. -/
def Obligations.ResetState : Prop :=
  State.reset.opc = 0 ∧ State.reset.t = 0 ∧ State.reset.done = false ∧ State.reset.err = false ∧
  State.reset.cause = 0 ∧ State.reset.width = 0 ∧ State.reset.height = 0 ∧ State.reset.phase = .idle ∧
  State.reset.pos = 0 ∧ State.reset.cmdWord = 0 ∧ State.reset.statusWord = 0 ∧ State.reset.widthWord = 0 ∧
  State.reset.heightWord = 0 ∧ State.reset.busy = false ∧ State.reset.doneWire = false ∧
  State.reset.errWire = false ∧ (∀ a, State.reset.pix.read a = none) ∧ (∀ j, State.reset.lum.read j = none)

/-- R28: the transitions of `PHASE`, and which event each belongs to. -/
def Obligations.PhaseTransitions : Prop :=
  ∀ s t : State, step s = .next t →
    t.phase = s.phase ∨
    (s.phase = .idle ∧ (t.phase = .scan ∨ t.phase = .pass1) ∧ t.pos = 0 ∧ t.done = false ∧
      ∃ e rest v, s.pending = e :: rest ∧ e.WritesRegister 0 v) ∨
    (s.phase = .scan ∧ t.phase = .idle ∧ t.done = true) ∨
    (s.phase = .pass1 ∧ t.phase = .pass2 ∧ t.pos = 0) ∨
    (s.phase = .pass2 ∧ t.phase = .idle ∧ t.done = true) ∨
    (t.phase = .idle ∧ ∃ rest, s.pending = .reset :: rest)

/-- R26: what sets and what clears `DONE`. -/
def Obligations.DoneIsSetOnlyAtCompletion : Prop :=
  ∀ s t : State, step s = .next t →
    (s.done = false → t.done = true → s.phase ≠ .idle ∧ t.phase = .idle) ∧
    (s.done = true → t.done = false →
      (s.phase = .idle ∧ t.phase ≠ .idle) ∨
      ∃ e rest, s.pending = e :: rest ∧ (e = .reset ∨ ∃ v, e.WritesRegister 1 v ∧ v.getLsbD 1 = true))

/-- The state after reset meets the invariant. -/
def Obligations.ResetMeetsTheInvariant : Prop := State.reset.Inv

/-- R41, R35, R34: every step keeps the invariant. -/
def Obligations.EveryStepKeepsTheInvariant : Prop := ∀ s t : State, s.Inv → step s = .next t → t.Inv

/-- R170, R181 and log entry 7: no step from a state that meets the invariant stops with a fault of the model. -/
def Obligations.NoStepStopsWithAFault : Prop := ∀ (s : State) (f : Fault), s.Inv → step s ≠ .fault f

/-- R201, R138: from every state that meets the invariant the engine, left alone, reaches `IDLE` within
`2 * NPIX + 2` steps, and a block that was busy then has `DONE = 1`. -/
def Obligations.EngineAlwaysCompletes : Prop :=
  ∀ s : State, s.Inv → ∃ k t, k ≤ 2 * s.npix + 2 ∧ runEngine k s = .next t ∧ t.phase = .idle ∧
    (s.phase ≠ .idle → t.done = true)

/-- R158, R152, R200: the synchronous call: a command written while the block can take it makes the block busy, it
stays busy until as many engine steps as its operation has were made, and these end in `IDLE` with `DONE = 1`,
`ERR = 0` and the command word in `CMD`. -/
def Obligations.SynchronousCallCompletes : Prop :=
  ∀ (s : State) (i : Instr), s.pending = (Stmt.command i).events → s.phase = .idle → s.err = false →
    s.npix ≤ s.maxPixels →
    (∀ k, 1 ≤ k → k ≤ engineSteps i s.npix → ∃ u, runSteps k s = .next u ∧ u.phase ≠ .idle) ∧
    ∃ t, runSteps (1 + engineSteps i s.npix) s = .next t ∧ t.phase = .idle ∧ t.done = true ∧
      t.err = false ∧ t.cmdWord = encode i ∧ t.width = s.width ∧ t.height = s.height ∧
      ∀ a, a % 4 = 3 ∨ 4 * s.npix ≤ a → t.pix.read a = s.pix.read a
end

