-- ==== Sys2Proof/Laws/Arith.lean ====
section
/-! SUPPORT. What the datapath computes, as facts about numbers. -/

namespace Sys2Proof.Machine

theorem fdiv_eq_div (a : Int) {b : Int} (h : 0 ≤ b) : fdiv a b = a / b := Int.fdiv_eq_ediv_of_nonneg a h

/-- `clamp8` on numbers (R12). -/
theorem clamp8_toNat (v : Int) : ((clamp8 v).toNat : Int) = max 0 (min 255 v) := by
  unfold clamp8
  split
  · simp; omega
  · split
    · simp; omega
    · simp only [BitVec.toNat_ofNat]; omega

theorem lumNum_le (r g b : Byte) : lumNum r g b ≤ 255000 := by
  have := r.isLt; have := g.isLt; have := b.isLt
  unfold lumNum; omega

/-- `LUM8` is the floor of the luminance; the clamp is never active (R94). -/
theorem lum8_toNat (r g b : Byte) : (lum8 r g b).toNat = lumNum r g b / 1000 := by
  have h := lumNum_le r g b
  have hc := clamp8_toNat (fdiv (lumNum r g b) 1000)
  rw [fdiv_eq_div _ (by decide)] at hc
  unfold lum8 q8
  rw [fdiv_eq_div _ (by decide)]
  omega

theorem lumNum_grey (v : Byte) : lumNum v v v = 1000 * v.toNat := by unfold lumNum; omega

theorem lum8_grey (v : Byte) : lum8 v v v = v := by
  apply BitVec.eq_of_toNat_eq; rw [lum8_toNat, lumNum_grey]; omega

theorem binarise_toNat (a : Byte) : (binarise a).toNat = if a.toNat < 129 then 0 else 255 := by
  unfold binarise; split <;> rfl

theorem errorQuotient_eq {d : Int} (h : 0 ≤ d) (a : Byte) :
    errorQuotient d a = ((a.toNat : Int) - (if a.toNat < 129 then 0 else 255)) / d := by
  unfold errorQuotient; rw [fdiv_eq_div _ h, binarise_toNat]; split <;> rfl

/-- The matrix is the printed table (R33). -/
theorem matrixEntry_eq {i k : Nat} (hi : i < 4) (hk : k < 4) : matrixEntry i k = matrixAt i k := by
  have h : ∀ i' : Fin 4, ∀ k' : Fin 4, matrixEntry i' k' = matrixAt i' k' := by decide
  exact h ⟨i, hi⟩ ⟨k, hk⟩

theorem matrixEntry_range {i k : Nat} (hi : i < 4) (hk : k < 4) : 15 ≤ matrixEntry i k ∧ matrixEntry i k ≤ 240 := by
  have h : ∀ i' : Fin 4, ∀ k' : Fin 4, 15 ≤ matrixEntry i' k' ∧ matrixEntry i' k' ≤ 240 := by decide
  exact h ⟨i, hi⟩ ⟨k, hk⟩

theorem bias_range (w l : Nat) : 15 ≤ bias w l ∧ bias w l ≤ 240 :=
  matrixEntry_range (Nat.mod_lt _ (by decide)) (Nat.mod_lt _ (by decide))

/-- The form of `B4` with the 8-bit luminance (R95, R104). -/
theorem biased_eq (m : Nat) (r g b : Byte) : biased m r g b = ((lum8 r g b).toNat + m) / 2 := by
  rw [lum8_toNat]; unfold biased; omega

end Sys2Proof.Machine
end

