-- ==== Sys2Proof/Laws/Decode.lean ====
section
/-! SUPPORT. Splitting and joining the fields of a command word, as numbers and as inverses. -/

namespace Sys2Proof

theorem toNat_append_add {m n : Nat} (x : BitVec m) (y : BitVec n) :
    (x ++ y).toNat = x.toNat * 2 ^ n + y.toNat := by
  rw [BitVec.toNat_append, ← Nat.shiftLeft_add_eq_or_of_lt y.isLt, Nat.shiftLeft_eq]

/-- The number a command word is (R70). -/
theorem joinFields_toNat (f : Fields) :
    (joinFields f).toNat = f.rsv1.toNat * 131072 + f.t.toNat * 256 + f.rsv0.toNat * 16 + f.opc.toNat := by
  have h : (joinFields f).toNat = ((f.rsv1 ++ f.t ++ f.rsv0 ++ f.opc : BitVec (15 + 9 + 4 + 4))).toNat := rfl
  rw [h, toNat_append_add, toNat_append_add, toNat_append_add]
  omega

theorem splitWord_toNat (w : Word) :
    (splitWord w).rsv1.toNat = w.toNat / 131072 % 32768 ∧ (splitWord w).t.toNat = w.toNat / 256 % 512 ∧
    (splitWord w).rsv0.toNat = w.toNat / 16 % 16 ∧ (splitWord w).opc.toNat = w.toNat % 16 := by
  simp [splitWord, BitVec.extractLsb'_toNat, Nat.shiftRight_eq_div_pow]

theorem splitWord_joinFields (f : Fields) : splitWord (joinFields f) = f := by
  obtain ⟨a, t, b, o⟩ := f
  have hs := splitWord_toNat (joinFields ⟨a, t, b, o⟩)
  rw [joinFields_toNat] at hs
  have := a.isLt; have := t.isLt; have := b.isLt; have := o.isLt
  obtain ⟨h1, h2, h3, h4⟩ := hs
  have e : splitWord (joinFields ⟨a, t, b, o⟩) =
      ⟨(splitWord (joinFields ⟨a, t, b, o⟩)).rsv1, (splitWord (joinFields ⟨a, t, b, o⟩)).t,
        (splitWord (joinFields ⟨a, t, b, o⟩)).rsv0, (splitWord (joinFields ⟨a, t, b, o⟩)).opc⟩ := rfl
  rw [e, Fields.mk.injEq]
  refine ⟨?_, ?_, ?_, ?_⟩ <;> apply BitVec.eq_of_toNat_eq <;> simp only at * <;> omega

theorem joinFields_splitWord (w : Word) : joinFields (splitWord w) = w := by
  apply BitVec.eq_of_toNat_eq
  rw [joinFields_toNat]
  obtain ⟨h1, h2, h3, h4⟩ := splitWord_toNat w
  have := w.isLt
  rw [h1, h2, h3, h4]; omega

theorem encode_opcode (i : Instr) : (splitWord (encode i)).opc = i.opcode := by
  rw [encode, splitWord_joinFields]; rfl

theorem encode_threshold (i : Instr) : (splitWord (encode i)).t = i.threshold := by
  rw [encode, splitWord_joinFields]; rfl

end Sys2Proof
end

