-- ==== Sys2Proof/Laws/Memory.lean ====
section
/-! SUPPORT. The laws of a memory: what a read answers after a write or after bytes became `UNSPEC`, that every
operation keeps the canonical form, and that canonical memories that read alike are equal. -/

namespace Sys2Proof.Machine

@[simp] theorem Memory.read_nil (a : Nat) : Memory.read [] a = none := rfl

theorem Memory.read_write (m : Memory) (a : Nat) (b : Byte) (x : Nat) :
    (m.write a b).read x = if x = a then some b else m.read x := by
  induction m with
  | nil => simp [Memory.write, Memory.read]
  | cons c m ih =>
    simp only [Memory.write]
    split
    · simp [Memory.read]
    · split
      · next h => subst h; simp only [Memory.read]; split <;> rfl
      · next h =>
        simp only [Memory.read, ih]
        by_cases hx : x = c.1
        · subst hx; simp [Ne.symm h]
        · simp [hx]

@[simp] theorem Memory.read_write_same (m : Memory) (a : Nat) (b : Byte) : (m.write a b).read a = some b := by
  simp [Memory.read_write]

theorem Memory.read_write_other (m : Memory) {a x : Nat} (b : Byte) (h : x ≠ a) :
    (m.write a b).read x = m.read x := by simp [Memory.read_write, h]

theorem Memory.read_forget (p : Nat → Bool) (m : Memory) (x : Nat) :
    (Memory.forget p m).read x = if p x then none else m.read x := by
  induction m with
  | nil => simp [Memory.forget]
  | cons c m ih =>
    simp only [Memory.forget, List.filter_cons] at ih ⊢
    by_cases hp : p c.1 <;> by_cases hx : x = c.1 <;> simp_all [Memory.read]

/-- An address that a write lists was listed before or is the one written. -/
theorem Memory.mem_write {m : Memory} {a : Nat} {b : Byte} {c : Host.Cell} (h : c ∈ m.write a b) :
    c.1 = a ∨ c ∈ m := by
  induction m with
  | nil => simp [Memory.write] at h; simp [h]
  | cons d m ih =>
    simp only [Memory.write] at h
    split at h
    · simp at h ⊢; rcases h with rfl | rfl | h <;> simp_all
    · split at h
      · simp at h ⊢; rcases h with rfl | h <;> simp_all
      · simp at h ⊢; rcases h with rfl | h
        · simp
        · rcases ih h with h | h <;> simp_all

theorem Memory.wf_write {m : Memory} (h : m.wf) (a : Nat) (b : Byte) : (m.write a b).wf := by
  induction m with
  | nil => simp [Memory.write]
  | cons c m ih =>
    have hc := List.pairwise_cons.1 h
    simp only [Memory.write]
    split
    · next ha =>
      refine List.pairwise_cons.2 ⟨fun d hd => ?_, h⟩
      rcases List.mem_cons.1 hd with rfl | hd
      · exact ha
      · exact Nat.lt_trans ha (hc.1 d hd)
    · split
      · next ha => subst ha; exact List.pairwise_cons.2 ⟨hc.1, hc.2⟩
      · next ha hne =>
        refine List.pairwise_cons.2 ⟨fun d hd => ?_, ih hc.2⟩
        rcases Memory.mem_write hd with hd | hd
        · omega
        · exact hc.1 d hd

theorem Memory.wf_forget {m : Memory} (h : m.wf) (p : Nat → Bool) : (Memory.forget p m).wf := List.Pairwise.filter _ h

theorem Memory.read_eq_none_of_lt {m : Memory} {a : Nat} (h : ∀ c ∈ m, a < c.1) : m.read a = none := by
  induction m with
  | nil => rfl
  | cons c m ih =>
    have := h c (by simp)
    simp only [Memory.read, if_neg (Nat.ne_of_lt this)]
    exact ih fun d hd => h d (by simp [hd])

/-- Canonical memories that read alike at every address are the same data. -/
theorem Memory.eq_of_read_eq {m n : Memory} (hm : m.wf) (hn : n.wf) (h : ∀ a, m.read a = n.read a) : m = n := by
  induction m generalizing n with
  | nil =>
    cases n with
    | nil => rfl
    | cons d n => have := h d.1; simp [Memory.read] at this
  | cons c m ih =>
    cases n with
    | nil => have := h c.1; simp [Memory.read] at this
    | cons d n =>
      have hm' := List.pairwise_cons.1 hm
      have hn' := List.pairwise_cons.1 hn
      have hcd : c = d := by
        rcases Nat.lt_trichotomy c.1 d.1 with hlt | heq | hlt
        · have hn0 : Memory.read n c.1 = none :=
            Memory.read_eq_none_of_lt fun e he => Nat.lt_trans hlt (hn'.1 e he)
          have := h c.1; simp [Memory.read, Nat.ne_of_lt hlt, hn0] at this
        · have := h c.1; simp [Memory.read, heq] at this; exact Prod.ext heq this
        · have hm0 : Memory.read m d.1 = none :=
            Memory.read_eq_none_of_lt fun e he => Nat.lt_trans hlt (hm'.1 e he)
          have := h d.1; simp [Memory.read, Nat.ne_of_lt hlt, hm0] at this
      subst hcd
      rw [ih hm'.2 hn'.2]
      intro a
      by_cases ha : a = c.1
      · subst ha
        rw [Memory.read_eq_none_of_lt hm'.1, Memory.read_eq_none_of_lt hn'.1]
      · have := h a; simpa [Memory.read, ha] using this

/-- Writes to different addresses of a canonical memory commute. -/
theorem Memory.write_comm {m : Memory} (h : m.wf) {a x : Nat} (b y : Byte) (hne : a ≠ x) :
    (m.write a b).write x y = (m.write x y).write a b := by
  refine Memory.eq_of_read_eq (Memory.wf_write (Memory.wf_write h _ _) _ _)
    (Memory.wf_write (Memory.wf_write h _ _) _ _) fun z => ?_
  simp only [Memory.read_write]
  split <;> split <;> simp_all

/-- The later of two writes to one address is the one that counts. -/
theorem Memory.write_write {m : Memory} (h : m.wf) (a : Nat) (b y : Byte) :
    (m.write a b).write a y = m.write a y := by
  refine Memory.eq_of_read_eq (Memory.wf_write (Memory.wf_write h _ _) _ _) (Memory.wf_write h _ _) fun z => ?_
  simp only [Memory.read_write]
  split <;> rfl

theorem Memory.Within.nil (n : Nat) : Memory.Within n [] := ⟨List.Pairwise.nil, fun _ _ => rfl⟩

theorem Memory.Within.write {n : Nat} {m : Memory} (h : m.Within n) {a : Nat} (ha : a < n) (b : Byte) :
    (m.write a b).Within n :=
  ⟨Memory.wf_write h.1 a b, fun x hx => by rw [Memory.read_write_other _ _ (by omega)]; exact h.2 x hx⟩

theorem Memory.Within.forget {n : Nat} {m : Memory} (h : m.Within n) (p : Nat → Bool) :
    (Memory.forget p m).Within n :=
  ⟨Memory.wf_forget h.1 p, fun x hx => by rw [Memory.read_forget, h.2 x hx]; split <;> rfl⟩

/-- The byte a step reads may be what the memory holds (`Memory.MayRead`), whichever draw stands for `UNSPEC`. -/
theorem mayRead_readOr (m : Memory) (a draw : Nat) : m.MayRead a (readOr m a draw) := by
  intro b hb; simp [readOr, hb]

theorem readOr_of_read {m : Memory} {a : Nat} {b : Byte} (h : m.read a = some b) (draw : Nat) :
    readOr m a draw = b := by simp [readOr, h]

/-- What `State.writeRgb` does to `PIX`. -/
theorem pixelSet_writeRgb (s : State) (l : Nat) (v : Byte) : s.pix.PixelSet l v (s.writeRgb l v).pix := by
  refine ⟨?_, ?_, ?_, fun a h0 h1 h2 => ?_⟩ <;> simp_all [State.writeRgb, Memory.read_write]

/-- Every address of the pixel set lies in the image and is no alpha byte. -/
theorem Memory.PixelSet.read_other {l : Nat} {v : Byte} {m m' : Memory} (h : m.PixelSet l v m') {a : Nat}
    (ha : a % 4 = 3 ∨ 4 * (l + 1) ≤ a ∨ a < 4 * l) : m'.read a = m.read a :=
  h.2.2.2 a (by omega) (by omega) (by omega)

theorem Memory.PixelSet.read_colour {l : Nat} {v : Byte} {m m' : Memory} (h : m.PixelSet l v m') {k : Nat}
    (hk : k < 3) : m'.read (4 * l + k) = some v := by
  have : k = 0 ∨ k = 1 ∨ k = 2 := by omega
  rcases this with rfl | rfl | rfl
  · exact h.1
  · exact h.2.1
  · exact h.2.2.1

end Sys2Proof.Machine
end

