-- ==== Sys2Proof/Laws/State.lean ====
section
/-! SUPPORT. One lemma per field per named update of the state, tagged for `simp`, so that no later proof unfolds a
record update. -/

namespace Sys2Proof.Machine

/-! ### `spendDraws` -/

@[simp] theorem State.spendDraws_opc (s : State) (k : Nat) : (s.spendDraws k).opc = s.opc := rfl
@[simp] theorem State.spendDraws_t (s : State) (k : Nat) : (s.spendDraws k).t = s.t := rfl
@[simp] theorem State.spendDraws_done (s : State) (k : Nat) : (s.spendDraws k).done = s.done := rfl
@[simp] theorem State.spendDraws_err (s : State) (k : Nat) : (s.spendDraws k).err = s.err := rfl
@[simp] theorem State.spendDraws_cause (s : State) (k : Nat) : (s.spendDraws k).cause = s.cause := rfl
@[simp] theorem State.spendDraws_width (s : State) (k : Nat) : (s.spendDraws k).width = s.width := rfl
@[simp] theorem State.spendDraws_height (s : State) (k : Nat) : (s.spendDraws k).height = s.height := rfl
@[simp] theorem State.spendDraws_phase (s : State) (k : Nat) : (s.spendDraws k).phase = s.phase := rfl
@[simp] theorem State.spendDraws_pos (s : State) (k : Nat) : (s.spendDraws k).pos = s.pos := rfl
@[simp] theorem State.spendDraws_pix (s : State) (k : Nat) : (s.spendDraws k).pix = s.pix := rfl
@[simp] theorem State.spendDraws_lum (s : State) (k : Nat) : (s.spendDraws k).lum = s.lum := rfl
@[simp] theorem State.spendDraws_maxPixels (s : State) (k : Nat) : (s.spendDraws k).maxPixels = s.maxPixels := rfl
@[simp] theorem State.spendDraws_pending (s : State) (k : Nat) : (s.spendDraws k).pending = s.pending := rfl
@[simp] theorem State.spendDraws_replies (s : State) (k : Nat) : (s.spendDraws k).replies = s.replies := rfl
@[simp] theorem State.spendDraws_draws (s : State) (k : Nat) : (s.spendDraws k).draws = s.draws + k := rfl
@[simp] theorem State.spendDraws_npix (s : State) (k : Nat) : (s.spendDraws k).npix = s.npix := rfl
@[simp] theorem State.spendDraws_cmdWord (s : State) (k : Nat) : (s.spendDraws k).cmdWord = s.cmdWord := rfl

/-! ### `writeRgb` -/

@[simp] theorem State.writeRgb_opc (s : State) (l : Nat) (v : Byte) : (s.writeRgb l v).opc = s.opc := rfl
@[simp] theorem State.writeRgb_t (s : State) (l : Nat) (v : Byte) : (s.writeRgb l v).t = s.t := rfl
@[simp] theorem State.writeRgb_done (s : State) (l : Nat) (v : Byte) : (s.writeRgb l v).done = s.done := rfl
@[simp] theorem State.writeRgb_err (s : State) (l : Nat) (v : Byte) : (s.writeRgb l v).err = s.err := rfl
@[simp] theorem State.writeRgb_cause (s : State) (l : Nat) (v : Byte) : (s.writeRgb l v).cause = s.cause := rfl
@[simp] theorem State.writeRgb_width (s : State) (l : Nat) (v : Byte) : (s.writeRgb l v).width = s.width := rfl
@[simp] theorem State.writeRgb_height (s : State) (l : Nat) (v : Byte) : (s.writeRgb l v).height = s.height := rfl
@[simp] theorem State.writeRgb_phase (s : State) (l : Nat) (v : Byte) : (s.writeRgb l v).phase = s.phase := rfl
@[simp] theorem State.writeRgb_pos (s : State) (l : Nat) (v : Byte) : (s.writeRgb l v).pos = s.pos := rfl
@[simp] theorem State.writeRgb_pix (s : State) (l : Nat) (v : Byte) : (s.writeRgb l v).pix = ((s.pix.write (4 * l) v).write (4 * l + 1) v).write (4 * l + 2) v := rfl
@[simp] theorem State.writeRgb_lum (s : State) (l : Nat) (v : Byte) : (s.writeRgb l v).lum = s.lum := rfl
@[simp] theorem State.writeRgb_maxPixels (s : State) (l : Nat) (v : Byte) : (s.writeRgb l v).maxPixels = s.maxPixels := rfl
@[simp] theorem State.writeRgb_pending (s : State) (l : Nat) (v : Byte) : (s.writeRgb l v).pending = s.pending := rfl
@[simp] theorem State.writeRgb_replies (s : State) (l : Nat) (v : Byte) : (s.writeRgb l v).replies = s.replies := rfl
@[simp] theorem State.writeRgb_draws (s : State) (l : Nat) (v : Byte) : (s.writeRgb l v).draws = s.draws := rfl
@[simp] theorem State.writeRgb_npix (s : State) (l : Nat) (v : Byte) : (s.writeRgb l v).npix = s.npix := rfl
@[simp] theorem State.writeRgb_cmdWord (s : State) (l : Nat) (v : Byte) : (s.writeRgb l v).cmdWord = s.cmdWord := rfl

/-! ### `writeLum` -/

@[simp] theorem State.writeLum_opc (s : State) (l : Nat) (v : Byte) : (s.writeLum l v).opc = s.opc := rfl
@[simp] theorem State.writeLum_t (s : State) (l : Nat) (v : Byte) : (s.writeLum l v).t = s.t := rfl
@[simp] theorem State.writeLum_done (s : State) (l : Nat) (v : Byte) : (s.writeLum l v).done = s.done := rfl
@[simp] theorem State.writeLum_err (s : State) (l : Nat) (v : Byte) : (s.writeLum l v).err = s.err := rfl
@[simp] theorem State.writeLum_cause (s : State) (l : Nat) (v : Byte) : (s.writeLum l v).cause = s.cause := rfl
@[simp] theorem State.writeLum_width (s : State) (l : Nat) (v : Byte) : (s.writeLum l v).width = s.width := rfl
@[simp] theorem State.writeLum_height (s : State) (l : Nat) (v : Byte) : (s.writeLum l v).height = s.height := rfl
@[simp] theorem State.writeLum_phase (s : State) (l : Nat) (v : Byte) : (s.writeLum l v).phase = s.phase := rfl
@[simp] theorem State.writeLum_pos (s : State) (l : Nat) (v : Byte) : (s.writeLum l v).pos = s.pos := rfl
@[simp] theorem State.writeLum_pix (s : State) (l : Nat) (v : Byte) : (s.writeLum l v).pix = s.pix := rfl
@[simp] theorem State.writeLum_lum (s : State) (l : Nat) (v : Byte) : (s.writeLum l v).lum = s.lum.write l v := rfl
@[simp] theorem State.writeLum_maxPixels (s : State) (l : Nat) (v : Byte) : (s.writeLum l v).maxPixels = s.maxPixels := rfl
@[simp] theorem State.writeLum_pending (s : State) (l : Nat) (v : Byte) : (s.writeLum l v).pending = s.pending := rfl
@[simp] theorem State.writeLum_replies (s : State) (l : Nat) (v : Byte) : (s.writeLum l v).replies = s.replies := rfl
@[simp] theorem State.writeLum_draws (s : State) (l : Nat) (v : Byte) : (s.writeLum l v).draws = s.draws := rfl
@[simp] theorem State.writeLum_npix (s : State) (l : Nat) (v : Byte) : (s.writeLum l v).npix = s.npix := rfl
@[simp] theorem State.writeLum_cmdWord (s : State) (l : Nat) (v : Byte) : (s.writeLum l v).cmdWord = s.cmdWord := rfl

/-! ### `setPos` -/

@[simp] theorem State.setPos_opc (s : State) (l : Nat) : (s.setPos l).opc = s.opc := rfl
@[simp] theorem State.setPos_t (s : State) (l : Nat) : (s.setPos l).t = s.t := rfl
@[simp] theorem State.setPos_done (s : State) (l : Nat) : (s.setPos l).done = s.done := rfl
@[simp] theorem State.setPos_err (s : State) (l : Nat) : (s.setPos l).err = s.err := rfl
@[simp] theorem State.setPos_cause (s : State) (l : Nat) : (s.setPos l).cause = s.cause := rfl
@[simp] theorem State.setPos_width (s : State) (l : Nat) : (s.setPos l).width = s.width := rfl
@[simp] theorem State.setPos_height (s : State) (l : Nat) : (s.setPos l).height = s.height := rfl
@[simp] theorem State.setPos_phase (s : State) (l : Nat) : (s.setPos l).phase = s.phase := rfl
@[simp] theorem State.setPos_pos (s : State) (l : Nat) : (s.setPos l).pos = l := rfl
@[simp] theorem State.setPos_pix (s : State) (l : Nat) : (s.setPos l).pix = s.pix := rfl
@[simp] theorem State.setPos_lum (s : State) (l : Nat) : (s.setPos l).lum = s.lum := rfl
@[simp] theorem State.setPos_maxPixels (s : State) (l : Nat) : (s.setPos l).maxPixels = s.maxPixels := rfl
@[simp] theorem State.setPos_pending (s : State) (l : Nat) : (s.setPos l).pending = s.pending := rfl
@[simp] theorem State.setPos_replies (s : State) (l : Nat) : (s.setPos l).replies = s.replies := rfl
@[simp] theorem State.setPos_draws (s : State) (l : Nat) : (s.setPos l).draws = s.draws := rfl
@[simp] theorem State.setPos_npix (s : State) (l : Nat) : (s.setPos l).npix = s.npix := rfl
@[simp] theorem State.setPos_cmdWord (s : State) (l : Nat) : (s.setPos l).cmdWord = s.cmdWord := rfl

/-! ### `acknowledge` -/

@[simp] theorem State.acknowledge_opc (s : State) : (s.acknowledge).opc = s.opc := rfl
@[simp] theorem State.acknowledge_t (s : State) : (s.acknowledge).t = s.t := rfl
@[simp] theorem State.acknowledge_done (s : State) : (s.acknowledge).done = s.done := rfl
@[simp] theorem State.acknowledge_err (s : State) : (s.acknowledge).err = false := rfl
@[simp] theorem State.acknowledge_cause (s : State) : (s.acknowledge).cause = 0 := rfl
@[simp] theorem State.acknowledge_width (s : State) : (s.acknowledge).width = s.width := rfl
@[simp] theorem State.acknowledge_height (s : State) : (s.acknowledge).height = s.height := rfl
@[simp] theorem State.acknowledge_phase (s : State) : (s.acknowledge).phase = s.phase := rfl
@[simp] theorem State.acknowledge_pos (s : State) : (s.acknowledge).pos = s.pos := rfl
@[simp] theorem State.acknowledge_pix (s : State) : (s.acknowledge).pix = s.pix := rfl
@[simp] theorem State.acknowledge_lum (s : State) : (s.acknowledge).lum = s.lum := rfl
@[simp] theorem State.acknowledge_maxPixels (s : State) : (s.acknowledge).maxPixels = s.maxPixels := rfl
@[simp] theorem State.acknowledge_pending (s : State) : (s.acknowledge).pending = s.pending := rfl
@[simp] theorem State.acknowledge_replies (s : State) : (s.acknowledge).replies = s.replies := rfl
@[simp] theorem State.acknowledge_draws (s : State) : (s.acknowledge).draws = s.draws := rfl
@[simp] theorem State.acknowledge_npix (s : State) : (s.acknowledge).npix = s.npix := rfl
@[simp] theorem State.acknowledge_cmdWord (s : State) : (s.acknowledge).cmdWord = s.cmdWord := rfl

/-! ### `reply` -/

@[simp] theorem State.reply_opc (s : State) (r : Reply) : (s.reply r).opc = s.opc := rfl
@[simp] theorem State.reply_t (s : State) (r : Reply) : (s.reply r).t = s.t := rfl
@[simp] theorem State.reply_done (s : State) (r : Reply) : (s.reply r).done = s.done := rfl
@[simp] theorem State.reply_err (s : State) (r : Reply) : (s.reply r).err = s.err := rfl
@[simp] theorem State.reply_cause (s : State) (r : Reply) : (s.reply r).cause = s.cause := rfl
@[simp] theorem State.reply_width (s : State) (r : Reply) : (s.reply r).width = s.width := rfl
@[simp] theorem State.reply_height (s : State) (r : Reply) : (s.reply r).height = s.height := rfl
@[simp] theorem State.reply_phase (s : State) (r : Reply) : (s.reply r).phase = s.phase := rfl
@[simp] theorem State.reply_pos (s : State) (r : Reply) : (s.reply r).pos = s.pos := rfl
@[simp] theorem State.reply_pix (s : State) (r : Reply) : (s.reply r).pix = s.pix := rfl
@[simp] theorem State.reply_lum (s : State) (r : Reply) : (s.reply r).lum = s.lum := rfl
@[simp] theorem State.reply_maxPixels (s : State) (r : Reply) : (s.reply r).maxPixels = s.maxPixels := rfl
@[simp] theorem State.reply_pending (s : State) (r : Reply) : (s.reply r).pending = s.pending := rfl
@[simp] theorem State.reply_replies (s : State) (r : Reply) : (s.reply r).replies = s.replies ++ [r] := rfl
@[simp] theorem State.reply_draws (s : State) (r : Reply) : (s.reply r).draws = s.draws := rfl
@[simp] theorem State.reply_npix (s : State) (r : Reply) : (s.reply r).npix = s.npix := rfl
@[simp] theorem State.reply_cmdWord (s : State) (r : Reply) : (s.reply r).cmdWord = s.cmdWord := rfl

/-! ### `accept` -/

@[simp] theorem State.accept_opc (s : State) (o : BitVec 4) (x : BitVec 9) (p : Phase) : (s.accept o x p).opc = o := rfl
@[simp] theorem State.accept_t (s : State) (o : BitVec 4) (x : BitVec 9) (p : Phase) : (s.accept o x p).t = x := rfl
@[simp] theorem State.accept_done (s : State) (o : BitVec 4) (x : BitVec 9) (p : Phase) : (s.accept o x p).done = false := rfl
@[simp] theorem State.accept_err (s : State) (o : BitVec 4) (x : BitVec 9) (p : Phase) : (s.accept o x p).err = s.err := rfl
@[simp] theorem State.accept_cause (s : State) (o : BitVec 4) (x : BitVec 9) (p : Phase) : (s.accept o x p).cause = s.cause := rfl
@[simp] theorem State.accept_width (s : State) (o : BitVec 4) (x : BitVec 9) (p : Phase) : (s.accept o x p).width = s.width := rfl
@[simp] theorem State.accept_height (s : State) (o : BitVec 4) (x : BitVec 9) (p : Phase) : (s.accept o x p).height = s.height := rfl
@[simp] theorem State.accept_phase (s : State) (o : BitVec 4) (x : BitVec 9) (p : Phase) : (s.accept o x p).phase = p := rfl
@[simp] theorem State.accept_pos (s : State) (o : BitVec 4) (x : BitVec 9) (p : Phase) : (s.accept o x p).pos = 0 := rfl
@[simp] theorem State.accept_pix (s : State) (o : BitVec 4) (x : BitVec 9) (p : Phase) : (s.accept o x p).pix = s.pix := rfl
@[simp] theorem State.accept_lum (s : State) (o : BitVec 4) (x : BitVec 9) (p : Phase) : (s.accept o x p).lum = s.lum := rfl
@[simp] theorem State.accept_maxPixels (s : State) (o : BitVec 4) (x : BitVec 9) (p : Phase) : (s.accept o x p).maxPixels = s.maxPixels := rfl
@[simp] theorem State.accept_pending (s : State) (o : BitVec 4) (x : BitVec 9) (p : Phase) : (s.accept o x p).pending = s.pending := rfl
@[simp] theorem State.accept_replies (s : State) (o : BitVec 4) (x : BitVec 9) (p : Phase) : (s.accept o x p).replies = s.replies := rfl
@[simp] theorem State.accept_draws (s : State) (o : BitVec 4) (x : BitVec 9) (p : Phase) : (s.accept o x p).draws = s.draws := rfl
@[simp] theorem State.accept_npix (s : State) (o : BitVec 4) (x : BitVec 9) (p : Phase) : (s.accept o x p).npix = s.npix := rfl

/-! ### `complete` -/

@[simp] theorem State.complete_opc (s : State) : (s.complete).opc = s.opc := rfl
@[simp] theorem State.complete_t (s : State) : (s.complete).t = s.t := rfl
@[simp] theorem State.complete_done (s : State) : (s.complete).done = true := rfl
@[simp] theorem State.complete_err (s : State) : (s.complete).err = s.err := rfl
@[simp] theorem State.complete_cause (s : State) : (s.complete).cause = s.cause := rfl
@[simp] theorem State.complete_width (s : State) : (s.complete).width = s.width := rfl
@[simp] theorem State.complete_height (s : State) : (s.complete).height = s.height := rfl
@[simp] theorem State.complete_phase (s : State) : (s.complete).phase = .idle := rfl
@[simp] theorem State.complete_pos (s : State) : (s.complete).pos = s.pos := rfl
@[simp] theorem State.complete_pix (s : State) : (s.complete).pix = s.pix := rfl
@[simp] theorem State.complete_lum (s : State) : (s.complete).lum = s.lum := rfl
@[simp] theorem State.complete_maxPixels (s : State) : (s.complete).maxPixels = s.maxPixels := rfl
@[simp] theorem State.complete_pending (s : State) : (s.complete).pending = s.pending := rfl
@[simp] theorem State.complete_replies (s : State) : (s.complete).replies = s.replies := rfl
@[simp] theorem State.complete_draws (s : State) : (s.complete).draws = s.draws := rfl
@[simp] theorem State.complete_npix (s : State) : (s.complete).npix = s.npix := rfl
@[simp] theorem State.complete_cmdWord (s : State) : (s.complete).cmdWord = s.cmdWord := rfl

/-! ### `resetBlock` -/

@[simp] theorem State.resetBlock_opc (s : State) : (s.resetBlock).opc = 0 := rfl
@[simp] theorem State.resetBlock_t (s : State) : (s.resetBlock).t = 0 := rfl
@[simp] theorem State.resetBlock_done (s : State) : (s.resetBlock).done = false := rfl
@[simp] theorem State.resetBlock_err (s : State) : (s.resetBlock).err = false := rfl
@[simp] theorem State.resetBlock_cause (s : State) : (s.resetBlock).cause = 0 := rfl
@[simp] theorem State.resetBlock_width (s : State) : (s.resetBlock).width = 0 := rfl
@[simp] theorem State.resetBlock_height (s : State) : (s.resetBlock).height = 0 := rfl
@[simp] theorem State.resetBlock_phase (s : State) : (s.resetBlock).phase = .idle := rfl
@[simp] theorem State.resetBlock_pos (s : State) : (s.resetBlock).pos = 0 := rfl
@[simp] theorem State.resetBlock_pix (s : State) : (s.resetBlock).pix = if s.busy then s.pix.forget (isImageColour s.npix) else s.pix := rfl
@[simp] theorem State.resetBlock_lum (s : State) : (s.resetBlock).lum = [] := rfl
@[simp] theorem State.resetBlock_maxPixels (s : State) : (s.resetBlock).maxPixels = s.maxPixels := rfl
@[simp] theorem State.resetBlock_pending (s : State) : (s.resetBlock).pending = s.pending := rfl
@[simp] theorem State.resetBlock_replies (s : State) : (s.resetBlock).replies = s.replies := rfl
@[simp] theorem State.resetBlock_draws (s : State) : (s.resetBlock).draws = s.draws := rfl

/-! ### `offerCommand` -/

@[simp] theorem State.offerCommand_opc (s : State) (v : Word) : (s.offerCommand v).opc = s.opc := rfl
@[simp] theorem State.offerCommand_t (s : State) (v : Word) : (s.offerCommand v).t = s.t := rfl
@[simp] theorem State.offerCommand_done (s : State) (v : Word) : (s.offerCommand v).done = s.done := rfl
@[simp] theorem State.offerCommand_err (s : State) (v : Word) : (s.offerCommand v).err = false := rfl
@[simp] theorem State.offerCommand_cause (s : State) (v : Word) : (s.offerCommand v).cause = 0 := rfl
@[simp] theorem State.offerCommand_width (s : State) (v : Word) : (s.offerCommand v).width = s.width := rfl
@[simp] theorem State.offerCommand_height (s : State) (v : Word) : (s.offerCommand v).height = s.height := rfl
@[simp] theorem State.offerCommand_phase (s : State) (v : Word) : (s.offerCommand v).phase = .idle := rfl
@[simp] theorem State.offerCommand_pos (s : State) (v : Word) : (s.offerCommand v).pos = s.pos := rfl
@[simp] theorem State.offerCommand_pix (s : State) (v : Word) : (s.offerCommand v).pix = s.pix := rfl
@[simp] theorem State.offerCommand_lum (s : State) (v : Word) : (s.offerCommand v).lum = s.lum := rfl
@[simp] theorem State.offerCommand_maxPixels (s : State) (v : Word) : (s.offerCommand v).maxPixels = s.maxPixels := rfl
@[simp] theorem State.offerCommand_pending (s : State) (v : Word) : (s.offerCommand v).pending = .host (.regWrite 0 v) :: s.pending := rfl
@[simp] theorem State.offerCommand_replies (s : State) (v : Word) : (s.offerCommand v).replies = s.replies := rfl
@[simp] theorem State.offerCommand_draws (s : State) (v : Word) : (s.offerCommand v).draws = s.draws := rfl
@[simp] theorem State.offerCommand_npix (s : State) (v : Word) : (s.offerCommand v).npix = s.npix := rfl
@[simp] theorem State.offerCommand_cmdWord (s : State) (v : Word) : (s.offerCommand v).cmdWord = s.cmdWord := rfl

/-! ### `raise` -/

@[simp] theorem State.raise_opc (s : State) (c : Cause) : (s.raise c).opc = s.opc := by
  unfold State.raise; split <;> rfl
@[simp] theorem State.raise_t (s : State) (c : Cause) : (s.raise c).t = s.t := by
  unfold State.raise; split <;> rfl
@[simp] theorem State.raise_done (s : State) (c : Cause) : (s.raise c).done = s.done := by
  unfold State.raise; split <;> rfl
@[simp] theorem State.raise_err (s : State) (c : Cause) : (s.raise c).err = true := by
  unfold State.raise; split <;> simp_all
@[simp] theorem State.raise_cause (s : State) (c : Cause) : (s.raise c).cause = if s.err then s.cause else c.code := by
  unfold State.raise; split <;> simp_all
@[simp] theorem State.raise_width (s : State) (c : Cause) : (s.raise c).width = s.width := by
  unfold State.raise; split <;> rfl
@[simp] theorem State.raise_height (s : State) (c : Cause) : (s.raise c).height = s.height := by
  unfold State.raise; split <;> rfl
@[simp] theorem State.raise_phase (s : State) (c : Cause) : (s.raise c).phase = s.phase := by
  unfold State.raise; split <;> rfl
@[simp] theorem State.raise_pos (s : State) (c : Cause) : (s.raise c).pos = s.pos := by
  unfold State.raise; split <;> rfl
@[simp] theorem State.raise_pix (s : State) (c : Cause) : (s.raise c).pix = s.pix := by
  unfold State.raise; split <;> rfl
@[simp] theorem State.raise_lum (s : State) (c : Cause) : (s.raise c).lum = s.lum := by
  unfold State.raise; split <;> rfl
@[simp] theorem State.raise_maxPixels (s : State) (c : Cause) : (s.raise c).maxPixels = s.maxPixels := by
  unfold State.raise; split <;> rfl
@[simp] theorem State.raise_pending (s : State) (c : Cause) : (s.raise c).pending = s.pending := by
  unfold State.raise; split <;> rfl
@[simp] theorem State.raise_replies (s : State) (c : Cause) : (s.raise c).replies = s.replies := by
  unfold State.raise; split <;> rfl
@[simp] theorem State.raise_draws (s : State) (c : Cause) : (s.raise c).draws = s.draws := by
  unfold State.raise; split <;> rfl
@[simp] theorem State.raise_npix (s : State) (c : Cause) : (s.raise c).npix = s.npix := by
  unfold State.raise; split <;> rfl
@[simp] theorem State.raise_cmdWord (s : State) (c : Cause) : (s.raise c).cmdWord = s.cmdWord := by
  unfold State.raise; split <;> rfl

/-! ### `clearDoneIf` -/

@[simp] theorem State.clearDoneIf_opc (s : State) (b : Bool) : (s.clearDoneIf b).opc = s.opc := by
  unfold State.clearDoneIf; split <;> rfl
@[simp] theorem State.clearDoneIf_t (s : State) (b : Bool) : (s.clearDoneIf b).t = s.t := by
  unfold State.clearDoneIf; split <;> rfl
@[simp] theorem State.clearDoneIf_done (s : State) (b : Bool) : (s.clearDoneIf b).done = (s.done && !b) := by
  unfold State.clearDoneIf; split <;> simp_all
@[simp] theorem State.clearDoneIf_err (s : State) (b : Bool) : (s.clearDoneIf b).err = s.err := by
  unfold State.clearDoneIf; split <;> rfl
@[simp] theorem State.clearDoneIf_cause (s : State) (b : Bool) : (s.clearDoneIf b).cause = s.cause := by
  unfold State.clearDoneIf; split <;> rfl
@[simp] theorem State.clearDoneIf_width (s : State) (b : Bool) : (s.clearDoneIf b).width = s.width := by
  unfold State.clearDoneIf; split <;> rfl
@[simp] theorem State.clearDoneIf_height (s : State) (b : Bool) : (s.clearDoneIf b).height = s.height := by
  unfold State.clearDoneIf; split <;> rfl
@[simp] theorem State.clearDoneIf_phase (s : State) (b : Bool) : (s.clearDoneIf b).phase = s.phase := by
  unfold State.clearDoneIf; split <;> rfl
@[simp] theorem State.clearDoneIf_pos (s : State) (b : Bool) : (s.clearDoneIf b).pos = s.pos := by
  unfold State.clearDoneIf; split <;> rfl
@[simp] theorem State.clearDoneIf_pix (s : State) (b : Bool) : (s.clearDoneIf b).pix = s.pix := by
  unfold State.clearDoneIf; split <;> rfl
@[simp] theorem State.clearDoneIf_lum (s : State) (b : Bool) : (s.clearDoneIf b).lum = s.lum := by
  unfold State.clearDoneIf; split <;> rfl
@[simp] theorem State.clearDoneIf_maxPixels (s : State) (b : Bool) : (s.clearDoneIf b).maxPixels = s.maxPixels := by
  unfold State.clearDoneIf; split <;> rfl
@[simp] theorem State.clearDoneIf_pending (s : State) (b : Bool) : (s.clearDoneIf b).pending = s.pending := by
  unfold State.clearDoneIf; split <;> rfl
@[simp] theorem State.clearDoneIf_replies (s : State) (b : Bool) : (s.clearDoneIf b).replies = s.replies := by
  unfold State.clearDoneIf; split <;> rfl
@[simp] theorem State.clearDoneIf_draws (s : State) (b : Bool) : (s.clearDoneIf b).draws = s.draws := by
  unfold State.clearDoneIf; split <;> rfl
@[simp] theorem State.clearDoneIf_npix (s : State) (b : Bool) : (s.clearDoneIf b).npix = s.npix := by
  unfold State.clearDoneIf; split <;> rfl
@[simp] theorem State.clearDoneIf_cmdWord (s : State) (b : Bool) : (s.clearDoneIf b).cmdWord = s.cmdWord := by
  unfold State.clearDoneIf; split <;> rfl

/-! ### `acknowledgeIf` -/

@[simp] theorem State.acknowledgeIf_opc (s : State) (b : Bool) : (s.acknowledgeIf b).opc = s.opc := by
  unfold State.acknowledgeIf; split <;> rfl
@[simp] theorem State.acknowledgeIf_t (s : State) (b : Bool) : (s.acknowledgeIf b).t = s.t := by
  unfold State.acknowledgeIf; split <;> rfl
@[simp] theorem State.acknowledgeIf_done (s : State) (b : Bool) : (s.acknowledgeIf b).done = s.done := by
  unfold State.acknowledgeIf; split <;> rfl
@[simp] theorem State.acknowledgeIf_err (s : State) (b : Bool) : (s.acknowledgeIf b).err = (s.err && !b) := by
  unfold State.acknowledgeIf; split <;> simp_all
@[simp] theorem State.acknowledgeIf_cause (s : State) (b : Bool) : (s.acknowledgeIf b).cause = if b then 0 else s.cause := by
  unfold State.acknowledgeIf; split <;> simp_all
@[simp] theorem State.acknowledgeIf_width (s : State) (b : Bool) : (s.acknowledgeIf b).width = s.width := by
  unfold State.acknowledgeIf; split <;> rfl
@[simp] theorem State.acknowledgeIf_height (s : State) (b : Bool) : (s.acknowledgeIf b).height = s.height := by
  unfold State.acknowledgeIf; split <;> rfl
@[simp] theorem State.acknowledgeIf_phase (s : State) (b : Bool) : (s.acknowledgeIf b).phase = s.phase := by
  unfold State.acknowledgeIf; split <;> rfl
@[simp] theorem State.acknowledgeIf_pos (s : State) (b : Bool) : (s.acknowledgeIf b).pos = s.pos := by
  unfold State.acknowledgeIf; split <;> rfl
@[simp] theorem State.acknowledgeIf_pix (s : State) (b : Bool) : (s.acknowledgeIf b).pix = s.pix := by
  unfold State.acknowledgeIf; split <;> rfl
@[simp] theorem State.acknowledgeIf_lum (s : State) (b : Bool) : (s.acknowledgeIf b).lum = s.lum := by
  unfold State.acknowledgeIf; split <;> rfl
@[simp] theorem State.acknowledgeIf_maxPixels (s : State) (b : Bool) : (s.acknowledgeIf b).maxPixels = s.maxPixels := by
  unfold State.acknowledgeIf; split <;> rfl
@[simp] theorem State.acknowledgeIf_pending (s : State) (b : Bool) : (s.acknowledgeIf b).pending = s.pending := by
  unfold State.acknowledgeIf; split <;> rfl
@[simp] theorem State.acknowledgeIf_replies (s : State) (b : Bool) : (s.acknowledgeIf b).replies = s.replies := by
  unfold State.acknowledgeIf; split <;> rfl
@[simp] theorem State.acknowledgeIf_draws (s : State) (b : Bool) : (s.acknowledgeIf b).draws = s.draws := by
  unfold State.acknowledgeIf; split <;> rfl
@[simp] theorem State.acknowledgeIf_npix (s : State) (b : Bool) : (s.acknowledgeIf b).npix = s.npix := by
  unfold State.acknowledgeIf; split <;> rfl
@[simp] theorem State.acknowledgeIf_cmdWord (s : State) (b : Bool) : (s.acknowledgeIf b).cmdWord = s.cmdWord := by
  unfold State.acknowledgeIf; split <;> rfl

end Sys2Proof.Machine
end

