-- ==== Sys2Proof/Laws/Sequencer.lean ====
section
/-! SUPPORT. What the accumulator, the diffusion of one position and the steps of the sequencer do, each said once. -/

namespace Sys2Proof.Machine

/-! ### The accumulator (R125) -/

@[simp] theorem State.acc_opc (s : State) (j : Nat) (c : Int) : (s.acc j c).opc = s.opc := by
  unfold State.acc; split <;> rfl
@[simp] theorem State.acc_t (s : State) (j : Nat) (c : Int) : (s.acc j c).t = s.t := by
  unfold State.acc; split <;> rfl
@[simp] theorem State.acc_done (s : State) (j : Nat) (c : Int) : (s.acc j c).done = s.done := by
  unfold State.acc; split <;> rfl
@[simp] theorem State.acc_err (s : State) (j : Nat) (c : Int) : (s.acc j c).err = s.err := by
  unfold State.acc; split <;> rfl
@[simp] theorem State.acc_cause (s : State) (j : Nat) (c : Int) : (s.acc j c).cause = s.cause := by
  unfold State.acc; split <;> rfl
@[simp] theorem State.acc_width (s : State) (j : Nat) (c : Int) : (s.acc j c).width = s.width := by
  unfold State.acc; split <;> rfl
@[simp] theorem State.acc_height (s : State) (j : Nat) (c : Int) : (s.acc j c).height = s.height := by
  unfold State.acc; split <;> rfl
@[simp] theorem State.acc_phase (s : State) (j : Nat) (c : Int) : (s.acc j c).phase = s.phase := by
  unfold State.acc; split <;> rfl
@[simp] theorem State.acc_pos (s : State) (j : Nat) (c : Int) : (s.acc j c).pos = s.pos := by
  unfold State.acc; split <;> rfl
@[simp] theorem State.acc_pix (s : State) (j : Nat) (c : Int) : (s.acc j c).pix = s.pix := by
  unfold State.acc; split <;> rfl
@[simp] theorem State.acc_maxPixels (s : State) (j : Nat) (c : Int) : (s.acc j c).maxPixels = s.maxPixels := by
  unfold State.acc; split <;> rfl
@[simp] theorem State.acc_pending (s : State) (j : Nat) (c : Int) : (s.acc j c).pending = s.pending := by
  unfold State.acc; split <;> rfl
@[simp] theorem State.acc_replies (s : State) (j : Nat) (c : Int) : (s.acc j c).replies = s.replies := by
  unfold State.acc; split <;> rfl
@[simp] theorem State.acc_npix (s : State) (j : Nat) (c : Int) : (s.acc j c).npix = s.npix := by
  unfold State.acc; split <;> rfl
@[simp] theorem State.acc_cmdWord (s : State) (j : Nat) (c : Int) : (s.acc j c).cmdWord = s.cmdWord := by
  unfold State.acc; split <;> rfl

theorem State.acc_of_beyond {s : State} {j : Nat} (h : s.npix ≤ j) (c : Int) : s.acc j c = s := by
  unfold State.acc; rw [if_neg (by omega)]

/-- What each entry of the plane reads after one update. -/
theorem State.acc_lum_read (s : State) (j : Nat) (c : Int) (k : Nat) :
    (s.acc j c).lum.read k =
      if k = j ∧ j < s.npix then some (clamp8 ((s.lumAt j).toNat + c)) else s.lum.read k := by
  unfold State.acc
  split
  · simp only [State.spendDraws_lum, State.writeLum_lum, Memory.read_write]
    split <;> simp_all
  · simp_all

/-- The same, for an entry that holds a value, with the addition on integers. -/
theorem State.acc_lum_read_some {s : State} {k : Nat} {x : Byte} (hk : k < s.npix) (hx : s.lum.read k = some x)
    (l off : Nat) (c : Int) :
    ∃ z : Byte, (s.acc (l + off) c).lum.read k = some z ∧ (z.toNat : Int) = clampedAdd l k off c x.toNat := by
  rw [State.acc_lum_read]
  by_cases h : l + off = k
  · subst h
    refine ⟨clamp8 ((x.toNat : Int) + c), by simp [hk, State.lumAt, readOr_of_read hx], ?_⟩
    rw [clamp8_toNat]; simp [clampedAdd]
  · exact ⟨x, by rw [if_neg (by omega)]; exact hx, by simp [clampedAdd, h]⟩

theorem State.acc_within {s : State} {n : Nat} (h : s.lum.Within n) (hn : s.npix ≤ n) (j : Nat) (c : Int) :
    (s.acc j c).lum.Within n := by
  unfold State.acc
  split
  · exact h.write (by omega) _
  · exact h

/-- An update touches the plane and the draw count only. -/
theorem State.acc_frame (s : State) (j : Nat) (c : Int) :
    s.acc j c = { s with lum := (s.acc j c).lum, draws := (s.acc j c).draws } := by
  unfold State.acc; split <;> rfl

/-! ### The diffusion of one position (R126, R127) -/

@[simp] theorem State.diffuse_opc (l : Nat) (e : Int) (ns : List (Nat × Int)) (s : State) :
    (State.diffuse l e ns s).opc = s.opc := by
  induction ns generalizing s <;> simp_all [State.diffuse]
@[simp] theorem State.diffuse_t (l : Nat) (e : Int) (ns : List (Nat × Int)) (s : State) :
    (State.diffuse l e ns s).t = s.t := by
  induction ns generalizing s <;> simp_all [State.diffuse]
@[simp] theorem State.diffuse_done (l : Nat) (e : Int) (ns : List (Nat × Int)) (s : State) :
    (State.diffuse l e ns s).done = s.done := by
  induction ns generalizing s <;> simp_all [State.diffuse]
@[simp] theorem State.diffuse_err (l : Nat) (e : Int) (ns : List (Nat × Int)) (s : State) :
    (State.diffuse l e ns s).err = s.err := by
  induction ns generalizing s <;> simp_all [State.diffuse]
@[simp] theorem State.diffuse_cause (l : Nat) (e : Int) (ns : List (Nat × Int)) (s : State) :
    (State.diffuse l e ns s).cause = s.cause := by
  induction ns generalizing s <;> simp_all [State.diffuse]
@[simp] theorem State.diffuse_width (l : Nat) (e : Int) (ns : List (Nat × Int)) (s : State) :
    (State.diffuse l e ns s).width = s.width := by
  induction ns generalizing s <;> simp_all [State.diffuse]
@[simp] theorem State.diffuse_height (l : Nat) (e : Int) (ns : List (Nat × Int)) (s : State) :
    (State.diffuse l e ns s).height = s.height := by
  induction ns generalizing s <;> simp_all [State.diffuse]
@[simp] theorem State.diffuse_phase (l : Nat) (e : Int) (ns : List (Nat × Int)) (s : State) :
    (State.diffuse l e ns s).phase = s.phase := by
  induction ns generalizing s <;> simp_all [State.diffuse]
@[simp] theorem State.diffuse_pos (l : Nat) (e : Int) (ns : List (Nat × Int)) (s : State) :
    (State.diffuse l e ns s).pos = s.pos := by
  induction ns generalizing s <;> simp_all [State.diffuse]
@[simp] theorem State.diffuse_pix (l : Nat) (e : Int) (ns : List (Nat × Int)) (s : State) :
    (State.diffuse l e ns s).pix = s.pix := by
  induction ns generalizing s <;> simp_all [State.diffuse]
@[simp] theorem State.diffuse_maxPixels (l : Nat) (e : Int) (ns : List (Nat × Int)) (s : State) :
    (State.diffuse l e ns s).maxPixels = s.maxPixels := by
  induction ns generalizing s <;> simp_all [State.diffuse]
@[simp] theorem State.diffuse_pending (l : Nat) (e : Int) (ns : List (Nat × Int)) (s : State) :
    (State.diffuse l e ns s).pending = s.pending := by
  induction ns generalizing s <;> simp_all [State.diffuse]
@[simp] theorem State.diffuse_replies (l : Nat) (e : Int) (ns : List (Nat × Int)) (s : State) :
    (State.diffuse l e ns s).replies = s.replies := by
  induction ns generalizing s <;> simp_all [State.diffuse]
@[simp] theorem State.diffuse_npix (l : Nat) (e : Int) (ns : List (Nat × Int)) (s : State) :
    (State.diffuse l e ns s).npix = s.npix := by
  induction ns generalizing s <;> simp_all [State.diffuse]
@[simp] theorem State.diffuse_cmdWord (l : Nat) (e : Int) (ns : List (Nat × Int)) (s : State) :
    (State.diffuse l e ns s).cmdWord = s.cmdWord := by
  induction ns generalizing s <;> simp_all [State.diffuse]

theorem State.diffuse_lum_read_other {l k : Nat} (e : Int) {ns : List (Nat × Int)} (s : State)
    (h : ∀ n ∈ ns, k ≠ l + n.1) : (State.diffuse l e ns s).lum.read k = s.lum.read k := by
  induction ns generalizing s with
  | nil => rfl
  | cons n ns ih =>
    rw [State.diffuse, ih _ fun m hm => h m (by simp [hm]), State.acc_lum_read,
      if_neg fun hk => h n (by simp) hk.1]

theorem State.diffuse_lum_read_beyond {l k : Nat} (e : Int) (ns : List (Nat × Int)) {s : State} (h : s.npix ≤ k) :
    (State.diffuse l e ns s).lum.read k = s.lum.read k := by
  induction ns generalizing s with
  | nil => rfl
  | cons n ns ih => rw [State.diffuse, ih (by simpa using h), State.acc_lum_read, if_neg (by omega)]

/-- What an entry of the plane that holds a value reads afterwards: its clamped additions in table order. -/
theorem State.diffuse_lum_read_some {l k : Nat} (e : Int) (ns : List (Nat × Int)) {s : State} {x : Byte}
    (hk : k < s.npix) (hx : s.lum.read k = some x) :
    ∃ z : Byte, (State.diffuse l e ns s).lum.read k = some z ∧
      (z.toNat : Int) = ns.foldl (fun y n => clampedAdd l k n.1 (e * n.2) y) x.toNat := by
  induction ns generalizing s x with
  | nil => exact ⟨x, hx, rfl⟩
  | cons n ns ih =>
    obtain ⟨y, hy, hyv⟩ := State.acc_lum_read_some hk hx l n.1 (e * n.2)
    obtain ⟨z, hz, hzv⟩ := ih (s := s.acc (l + n.1) (e * n.2)) (by simpa using hk) hy
    exact ⟨z, hz, by rw [hzv, hyv]; rfl⟩

theorem State.diffuse_within {n : Nat} (l : Nat) (e : Int) (ns : List (Nat × Int)) {s : State} (h : s.lum.Within n)
    (hn : s.npix ≤ n) : (State.diffuse l e ns s).lum.Within n := by
  induction ns generalizing s with
  | nil => exact h
  | cons m ns ih => exact ih (State.acc_within h hn _ _) (by simpa using hn)

/-- The diffusion touches the plane and the draw count only. -/
theorem State.diffuse_frame (l : Nat) (e : Int) (ns : List (Nat × Int)) (s : State) :
    State.diffuse l e ns s =
      { s with lum := (State.diffuse l e ns s).lum, draws := (State.diffuse l e ns s).draws } := by
  induction ns generalizing s with
  | nil => rfl
  | cons n ns ih =>
    rw [State.diffuse, ih, State.acc_frame]

/-! ### The steps of the sequencer -/

/-- What a `SCAN` step does (R100). -/
theorem State.scanStep_cases (out : Byte → Byte → Byte → Byte) (s : State) :
    (s.pos < s.npix ∧ ∃ r g b : Byte,
      s.pix.MayRead (4 * s.pos) r ∧ s.pix.MayRead (4 * s.pos + 1) g ∧ s.pix.MayRead (4 * s.pos + 2) b ∧
      s.pix.PixelSet s.pos (out r g b) (s.scanStep out).pix ∧
      s.scanStep out = { s with pix := (s.scanStep out).pix, pos := s.pos + 1, draws := s.draws + 3 }) ∨
    (s.npix ≤ s.pos ∧ s.scanStep out = { s with phase := .idle, done := true }) := by
  by_cases h : s.pos < s.npix
  · refine .inl ⟨h, s.redAt s.pos, s.greenAt s.pos, s.blueAt s.pos, mayRead_readOr _ _ _, mayRead_readOr _ _ _,
      mayRead_readOr _ _ _, ?_, ?_⟩
    · rw [State.scanStep, if_pos h]; exact pixelSet_writeRgb _ _ _
    · rw [State.scanStep, if_pos h]; rfl
  · exact .inr ⟨by omega, by rw [State.scanStep, if_neg h]; rfl⟩

/-- What a `PASS1` step does (R121, R122). -/
theorem State.pass1Step_cases (s : State) :
    (s.pos < s.npix ∧ ∃ r g b : Byte,
      s.pix.MayRead (4 * s.pos) r ∧ s.pix.MayRead (4 * s.pos + 1) g ∧ s.pix.MayRead (4 * s.pos + 2) b ∧
      s.pass1Step = { s with lum := s.lum.write s.pos (lum8 r g b), pos := s.pos + 1, draws := s.draws + 3 }) ∨
    (s.npix ≤ s.pos ∧ s.pass1Step = { s with phase := .pass2, pos := 0 }) := by
  by_cases h : s.pos < s.npix
  · exact .inl ⟨h, s.redAt s.pos, s.greenAt s.pos, s.blueAt s.pos, mayRead_readOr _ _ _, mayRead_readOr _ _ _,
      mayRead_readOr _ _ _, by rw [State.pass1Step, if_pos h]; rfl⟩
  · exact .inr ⟨by omega, by rw [State.pass1Step, if_neg h]⟩

/-- The state in which the contributions of a `PASS2` step are applied: the pixel is written and the plane is as before
the step (R128: `A` is read before any `ACC`). -/
theorem State.pass2Step_cases (d : Int) (ns : List (Nat × Int)) (s : State) :
    (s.pos < s.npix ∧ ∃ (a : Byte) (u : State),
      s.lum.MayRead s.pos a ∧ s.pix.PixelSet s.pos (binarise a) u.pix ∧ u.lum = s.lum ∧ u.npix = s.npix ∧
      (s.pass2Step d ns).pix = u.pix ∧
      (s.pass2Step d ns).lum = (State.diffuse s.pos (errorQuotient d a) ns u).lum ∧
      s.pass2Step d ns = { s with
        pix := (s.pass2Step d ns).pix, lum := (s.pass2Step d ns).lum, pos := s.pos + 1
        draws := (s.pass2Step d ns).draws }) ∨
    (s.npix ≤ s.pos ∧ s.pass2Step d ns = { s with phase := .idle, done := true }) := by
  by_cases h : s.pos < s.npix
  · refine .inl ⟨h, s.lumAt s.pos, (s.writeRgb s.pos (binarise (s.lumAt s.pos))).spendDraws 1,
      mayRead_readOr _ _ _, pixelSet_writeRgb _ _ _, rfl, rfl, ?_, ?_, ?_⟩
    · rw [State.pass2Step, if_pos h]; simp
    · rw [State.pass2Step, if_pos h]; rfl
    · rw [State.pass2Step, if_pos h, State.diffuse_frame]; rfl
  · exact .inr ⟨by omega, by rw [State.pass2Step, if_neg h]; rfl⟩

/-- What issuing a legal command to an idle block does (R152, checks 2 and 4, and the acceptance). -/
theorem State.issue_cases (o : BitVec 4) (x : BitVec 9) (p : Phase) (s : State) :
    (s.err = true ∧ s.issue o x p = s) ∨
    (s.err = false ∧ s.maxPixels < s.npix ∧ s.issue o x p = { s with err := true, cause := 2 }) ∨
    (s.err = false ∧ s.npix ≤ s.maxPixels ∧
      s.issue o x p = { s with opc := o, t := x, done := false, pos := 0, phase := p }) := by
  unfold State.issue
  by_cases he : s.err = true
  · simp [he]
  · have he' : s.err = false := by simpa using he
    by_cases hc : s.maxPixels < s.npix
    · simp [he', hc, State.raise, Cause.code]
    · simp [he', hc, State.accept, Nat.le_of_not_lt hc]

end Sys2Proof.Machine
end

