-- ==== Sys2Proof/Laws/Exec.lean ====
section
/-! SUPPORT. What a meaning can answer, said once for the five operations: later proofs cite the case of the phase and
never unfold a meaning. -/

namespace Sys2Proof.Machine

/-- The first phase of an operation (30_encoding.md R71). -/
def firstPhase (i : Instr) : Phase :=
  match i with
  | .gray => .scan
  | .thresh _ => .scan
  | .bayer _ => .scan
  | .fsd => .pass1
  | .atk => .pass1

/-- The output function of a pointwise operation at the current position; of no use for the others. -/
def outputFunction (i : Instr) (s : State) : Byte → Byte → Byte → Byte :=
  match i with
  | .gray => grayOut
  | .thresh t => threshOut t
  | .bayer t => bayerOut t s.width.toNat s.pos
  | .fsd => grayOut
  | .atk => grayOut

/-- While idle every operation's transition is the issue of its command (R152). -/
theorem exec_idle {s : State} (h : s.phase = .idle) (i : Instr) :
    exec i s = .next (s.issue i.opcode i.threshold (firstPhase i)) := by
  cases i <;> simp [exec, execGray, execThresh, execBayer, execFsd, execAtk, pointwise, diffusion, h, firstPhase,
    Instr.opcode, Instr.threshold]

/-- In `SCAN` a pointwise operation has the `SCAN` step (R100). -/
theorem exec_scan {s : State} (h : s.phase = .scan) {i : Instr} (hi : firstPhase i = .scan) :
    exec i s = .next (s.scanStep (outputFunction i s)) := by
  cases i <;> simp_all [exec, execGray, execThresh, execBayer, pointwise, firstPhase, outputFunction]

/-- In `PASS1` a diffusion operation has the `PASS1` step (R121). -/
theorem exec_pass1 {s : State} (h : s.phase = .pass1) {i : Instr} (hi : firstPhase i = .pass1) :
    exec i s = .next s.pass1Step := by
  cases i <;> simp_all [exec, execFsd, execAtk, diffusion, firstPhase]

/-- In `PASS2` `FSD` has its `PASS2` step (R128). -/
theorem exec_fsd_pass2 {s : State} (h : s.phase = .pass2) :
    exec .fsd s = .next (s.pass2Step fsdDivisor (fsdNeighbours s.width.toNat)) := by
  simp [exec, execFsd, diffusion, h]

/-- In `PASS2` `ATK` has its `PASS2` step (R129). -/
theorem exec_atk_pass2 {s : State} (h : s.phase = .pass2) :
    exec .atk s = .next (s.pass2Step atkDivisor (atkNeighbours s.width.toNat)) := by
  simp [exec, execAtk, diffusion, h]

/-- Every next state of a meaning is one of the sequencer's transitions. -/
theorem exec_next_cases {i : Instr} {s t : State} (h : exec i s = .next t) :
    (s.phase = .idle ∧ t = s.issue i.opcode i.threshold (firstPhase i)) ∨
    (s.phase = .scan ∧ firstPhase i = .scan ∧ t = s.scanStep (outputFunction i s)) ∨
    (s.phase = .pass1 ∧ firstPhase i = .pass1 ∧ t = s.pass1Step) ∨
    (s.phase = .pass2 ∧ firstPhase i = .pass1 ∧ ∃ d ns, t = s.pass2Step d ns) := by
  cases hp : s.phase with
  | idle => rw [exec_idle hp] at h; simp_all
  | scan =>
    cases i <;>
      simp_all [exec, execGray, execThresh, execBayer, execFsd, execAtk, pointwise, diffusion, firstPhase, outputFunction]
  | pass1 =>
    cases i <;> simp_all [exec, execGray, execThresh, execBayer, execFsd, execAtk, pointwise, diffusion, firstPhase]
  | pass2 =>
    cases i <;> simp_all [exec, execGray, execThresh, execBayer, execFsd, execAtk, pointwise, diffusion, firstPhase]
    · exact ⟨_, _, h.symm⟩
    · exact ⟨_, _, h.symm⟩

/-- No meaning refuses. -/
theorem exec_ne_refused (i : Instr) (s : State) (r : Refusal) : exec i s ≠ .refused r := by
  cases hp : s.phase <;> cases i <;>
    simp [exec, execGray, execThresh, execBayer, execFsd, execAtk, pointwise, diffusion, hp]

end Sys2Proof.Machine
end

