-- ==== Sys2Proof/Laws/PerInstr.lean ====
section
/-! SUPPORT. Facts about every operation as syntax, one lemma per constructor. -/

/-- The fields an operation is encoded with are well formed (30_encoding.md R70, R71, R74). -/
def Sys2Proof.Laws.FieldsLegal.Statement (i : Sys2Proof.Instr) : Prop := i.fields.wellFormed = true

theorem Sys2Proof.Laws.FieldsLegal.gray : Sys2Proof.Laws.FieldsLegal.Statement .gray := by
  unfold Sys2Proof.Laws.FieldsLegal.Statement; decide

theorem Sys2Proof.Laws.FieldsLegal.thresh (t : BitVec 9) : Sys2Proof.Laws.FieldsLegal.Statement (.thresh t) := rfl

theorem Sys2Proof.Laws.FieldsLegal.bayer (t : BitVec 9) : Sys2Proof.Laws.FieldsLegal.Statement (.bayer t) := rfl

theorem Sys2Proof.Laws.FieldsLegal.fsd : Sys2Proof.Laws.FieldsLegal.Statement .fsd := by
  unfold Sys2Proof.Laws.FieldsLegal.Statement; decide

theorem Sys2Proof.Laws.FieldsLegal.atk : Sys2Proof.Laws.FieldsLegal.Statement .atk := by
  unfold Sys2Proof.Laws.FieldsLegal.Statement; decide
end

