-- ==== Sys2Proof/Laws/Step.lean ====
section
/-! SUPPORT. Everything one step can do, said once: a step that answers a next state made one of the transitions below
from the state whose served schedule entry is removed. -/

namespace Sys2Proof.Machine

/-- The state with the served schedule entry removed. -/
def State.served (s : State) : State := { s with pending := s.pending.tail }

/-- The transitions of the machine: `Transition s e u t`, where `e` is the served entry (`none`: nothing scheduled),
`u` is `s.served` and `t` the state reached. -/
inductive Transition (s : State) (e : Option Event) (u : State) : State → Prop where
  /-- an engine step of the operation in `CMD` (R9, R63) -/
  | operation (i : Instr) (t : State) : e = none ∨ e = some .engine → s.phase ≠ .idle →
      decode s.cmdWord = .instr i → exec i u = .next t → Transition s e u t
  /-- the engine's turn while idle (R191) -/
  | rest : e = none ∨ e = some .engine → s.phase = .idle → Transition s e u u
  /-- a legal command written while the block can take it (R152) -/
  | command (ev : Event) (v : Word) (i : Instr) (t : State) : e = some ev → ev.WritesRegister 0 v → s.phase = .idle →
      s.err = false → decode v = .instr i → exec i u = .next t → Transition s e u t
  /-- a command dropped while `ERR = 1` (R176) -/
  | dropped (a : Access) : e = some (.host a) → s.phase = .idle → s.err = true → Transition s e u u
  /-- a write that raised a fault (R171) -/
  | faulted (a : Access) (c : Cause) : e = some (.host a) → Transition s e u (u.raise c)
  /-- a register read (R150) -/
  | registerRead (a : Access) (v : Word) : e = some (.host a) → Transition s e u (u.reply (.reg v))
  /-- a write to `STATUS` (R153) -/
  | statusWritten (ev : Event) (v : Word) : e = some ev → ev.WritesRegister 1 v →
      Transition s e u ((u.clearDoneIf (v.getLsbD 1)).acknowledgeIf (v.getLsbD 2))
  /-- a write to `WIDTH` while idle (R151) -/
  | widthWritten (a : Access) (w : BitVec 16) : e = some (.host a) → s.phase = .idle →
      Transition s e u { u with width := w }
  /-- a write to `HEIGHT` while idle (R151) -/
  | heightWritten (a : Access) (h : BitVec 16) : e = some (.host a) → s.phase = .idle →
      Transition s e u { u with height := h }
  /-- a pixel read while idle (R154) -/
  | pixelRead (off : Nat) (b : Byte) : e = some (.host (.pixRead off)) → s.phase = .idle → s.pix.MayRead off b →
      Transition s e u ((u.reply (.pix b)).spendDraws 1)
  /-- a pixel read while busy (R154) -/
  | pixelReadBusy (off : Nat) (b : Byte) : e = some (.host (.pixRead off)) → s.phase ≠ .idle →
      Transition s e u (((u.reply (.pix b)).spendDraws 1).raise .bufOwned)
  /-- a pixel write while idle (R155) -/
  | pixelWritten (off : Nat) (b : Byte) : e = some (.host (.pixWrite off b)) → s.phase = .idle →
      off < 4 * s.maxPixels → Transition s e u { u with pix := u.pix.write off b }
  /-- the reset transition (R190) -/
  | reset : e = some .reset → Transition s e u u.resetBlock

theorem State.busy_eq_true {s : State} : s.busy = true ↔ s.phase ≠ .idle := by simp [State.busy]

theorem State.idle_of_not_busy {s : State} (h : ¬s.busy = true) : s.phase = .idle := by
  by_contra hp; exact h (State.busy_eq_true.2 hp)

theorem engineTurn_transition {s u t : State} {e : Option Event} (he : e = none ∨ e = some .engine)
    (hu : u = s.served) (h : engineTurn u = .next t) : Transition s e u t := by
  subst hu
  unfold engineTurn at h
  split at h
  · next hb =>
    split at h
    · next i hi => exact .operation i t he (State.busy_eq_true.1 hb) hi h
    · simp at h
  · next hb =>
    simp only [Host.Outcome.next.injEq] at h
    subst h
    exact .rest he (State.idle_of_not_busy (s := s.served) hb)

theorem regRead_transition {s u t : State} {a : Access} {idx : Nat} (h : regRead idx u = .next t) :
    Transition s (some (.host a)) u t := by
  unfold regRead at h
  split at h <;> simp only [Host.Outcome.next.injEq, reduceCtorEq] at h <;> subst h <;> exact .registerRead a _ rfl

theorem regWrite_transition {s u t : State} {a : Access} {idx : Nat} {v : Word} (hu : u = s.served)
    (ha : Event.WritesRegister idx v (.host a)) (h : regWrite idx v u = .next t) :
    Transition s (some (.host a)) u t := by
  subst hu
  unfold regWrite at h
  split at h
  · unfold writeCmd at h
    split at h
    · simp only [Host.Outcome.next.injEq] at h; subst h; exact .faulted a _ rfl
    · next hb =>
      have hi : s.phase = .idle := State.idle_of_not_busy (s := s.served) hb
      split at h
      · next he => simp only [Host.Outcome.next.injEq] at h; subst h; exact .dropped a rfl hi he
      · next he =>
        have he' : s.err = false := by simpa [State.served] using he
        split at h
        · simp only [Host.Outcome.next.injEq] at h; subst h; exact .faulted a _ rfl
        · next i hd => exact .command _ v i t rfl ha hi he' hd h
  · simp only [writeStatus, Host.Outcome.next.injEq] at h; subst h; exact .statusWritten _ v rfl ha
  · unfold writeWidth at h
    split at h <;> simp only [Host.Outcome.next.injEq] at h <;> subst h
    · exact .faulted a _ rfl
    · next hb => exact .widthWritten a _ rfl (State.idle_of_not_busy (s := s.served) hb)
  · unfold writeHeight at h
    split at h <;> simp only [Host.Outcome.next.injEq] at h <;> subst h
    · exact .faulted a _ rfl
    · next hb => exact .heightWritten a _ rfl (State.idle_of_not_busy (s := s.served) hb)
  · simp at h

theorem busRegister_eq_some {off size idx : Nat} (h : busRegister off size = some idx) : size = 4 ∧ off = 4 * idx := by
  unfold busRegister at h
  split at h
  · simp at h; omega
  · simp at h

theorem hostAccess_transition {s u t : State} {a : Access} (hu : u = s.served) (h : hostAccess a u = .next t) :
    Transition s (some (.host a)) u t := by
  cases a with
  | regRead idx => exact regRead_transition h
  | regWrite idx v => exact regWrite_transition hu (.inl rfl) h
  | busRead off size =>
    simp only [hostAccess, busRead] at h
    split at h
    · exact regRead_transition h
    · simp at h
  | busWrite off size v =>
    simp only [hostAccess, busWrite] at h
    split at h
    · next idx hidx =>
      obtain ⟨rfl, rfl⟩ := busRegister_eq_some hidx
      exact regWrite_transition hu (.inr rfl) h
    · simp at h
  | pixRead off =>
    subst hu
    simp only [hostAccess, pixRead] at h
    split at h
    · split at h <;> simp only [Host.Outcome.next.injEq] at h <;> subst h
      · next hb => exact .pixelReadBusy off _ rfl (State.busy_eq_true.1 hb)
      · next hb =>
        exact .pixelRead off _ rfl (State.idle_of_not_busy (s := s.served) hb) (mayRead_readOr _ _ _)
    · simp at h
  | pixWrite off b =>
    subst hu
    simp only [hostAccess, pixWrite] at h
    split at h
    · next ho =>
      split at h <;> simp only [Host.Outcome.next.injEq] at h <;> subst h
      · exact .faulted _ _ rfl
      · next hb => exact .pixelWritten off b rfl (State.idle_of_not_busy (s := s.served) hb) ho
    · simp at h

/-- A step that answers a next state made one of the machine's transitions. -/
theorem step_transition {s t : State} (h : step s = .next t) : Transition s s.pending.head? s.served t := by
  cases hp : s.pending with
  | nil =>
    have hs : s.served = s := by simp [State.served, hp]; rw [← hp]
    rw [List.head?_nil]
    refine engineTurn_transition (.inl rfl) rfl ?_
    rw [hs]; simpa [step, hp] using h
  | cons e rest =>
    have hs : s.served = { s with pending := rest } := by simp [State.served, hp]
    simp only [step, hp, ← hs] at h
    rw [List.head?_cons]
    cases e with
    | host a => exact hostAccess_transition rfl h
    | reset => simp only [serve, Host.Outcome.next.injEq] at h; subst h; exact .reset rfl
    | engine => exact engineTurn_transition (.inr rfl) rfl h

end Sys2Proof.Machine
end

