-- ==== Sys2Proof/Laws/Run.lean ====
section
/-! SUPPORT. Runs of several steps: one step first, or one run after another. -/

namespace Sys2Proof.Machine

/-- The run of the claims is the run of the host's interface. -/
theorem run_core_eq_runSteps (k : Nat) (s : State) : Host.Core.run Sys2Proof.core k s = runSteps k s := by
  induction k generalizing s with
  | zero => rfl
  | succ k ih =>
    cases h : step s with
    | next t =>
      have hc : Sys2Proof.core.step s = .next t := h
      simp only [Host.Core.run, runSteps, hc, h]; exact ih t
    | fault f =>
      have hc : Sys2Proof.core.step s = .fault f := h
      simp only [Host.Core.run, runSteps, hc, h]; rfl
    | refused r =>
      have hc : Sys2Proof.core.step s = .refused r := h
      simp only [Host.Core.run, runSteps, hc, h]; rfl

theorem runSteps_succ {k : Nat} {s t : State} (h : step s = .next t) : runSteps (k + 1) s = runSteps k t := by
  simp only [runSteps, h]

/-- Two runs, one after the other. -/
theorem runSteps_add {j : Nat} (k : Nat) {s t : State} (h : runSteps j s = .next t) :
    runSteps (j + k) s = runSteps k t := by
  induction j generalizing s with
  | zero => simp only [runSteps, Host.Outcome.next.injEq] at h; subst h; rw [Nat.zero_add]
  | succ j ih =>
    rw [show j + 1 + k = (j + k) + 1 by omega]
    simp only [runSteps] at h ⊢
    split at h
    · exact ih h
    · simp at h
    · simp at h

/-- A run that goes one step further. -/
theorem runSteps_snoc {k : Nat} {s t u : State} (h : runSteps k s = .next t) (ht : step t = .next u) :
    runSteps (k + 1) s = .next u := by
  rw [runSteps_add 1 h, runSteps_succ ht, runSteps]

/-- With nothing scheduled, the step of a busy block is that of the operation in `CMD` (R9, R63). -/
theorem step_of_busy {s : State} {i : Instr} (hp : s.pending = []) (hb : s.phase ≠ .idle)
    (hd : decode s.cmdWord = .instr i) : step s = exec i s := by
  unfold step engineTurn
  rw [hp]
  simp only [if_pos (State.busy_eq_true.2 hb), hd]

end Sys2Proof.Machine
end

