-- ==== Sys2Proof/Tests/Slice0.lean ====
section
/-! SUPPORT. Small tests, each about one step or one word, with expected values from 95_test_vectors.md or from the
cited rule; and, for every statement of Certificates/Slice0/Obligations.lean that has hypotheses, a concrete state and
operands that meet all of them (`witness_<Name>`, clause by clause at boundary values). -/

namespace Sys2Proof.Tests

open Sys2Proof Sys2Proof.Machine

/-! ### Helpers -/

/-- The memory that holds the given bytes from address `a` on. -/
def bytesFrom : Nat → List Nat → Memory
  | _, [] => []
  | a, b :: bs => (a, BitVec.ofNat 8 b) :: bytesFrom (a + 1) bs

/-- An idle block with 16 pixels of memory, a `w` by `h` image and the given bytes of `PIX`. -/
def idleWith (w h : Nat) (pix : List Nat) : State :=
  { State.reset with
    maxPixels := 16, width := BitVec.ofNat 16 w, height := BitVec.ofNat 16 h, pix := bytesFrom 0 pix }

/-- The same block while operation `i` runs, in the given phase and position, with the given plane. -/
def busyWith (i : Instr) (p : Phase) (pos w h : Nat) (pix lum : List Nat) : State :=
  { idleWith w h pix with opc := i.opcode, t := i.threshold, phase := p, pos := pos, lum := bytesFrom 0 lum }

/-- The block with the given accesses scheduled. -/
def scheduled (es : List Event) (s : State) : State := { s with pending := es }

/-- The block after an unacknowledged fault with cause code `c`. -/
def faulted (c : BitVec 4) (s : State) : State := { s with err := true, cause := c }

/-- What `f` sees of a next state; `none` where the machine stops. -/
def seen {α : Type} (f : State → α) : Host.Outcome State Fault Refusal → Option α
  | .next s => some (f s)
  | .fault _ => none
  | .refused _ => none

/-- A grey image: the value three times and alpha 128. -/
def grey : List Nat → List Nat
  | [] => []
  | v :: vs => v :: v :: v :: 128 :: grey vs

/-! ### WellFormed: ill-formed fields that the checks refuse (R70, R71, R74) -/

theorem test_wf_high_reserved_bits_refused : (⟨1, 5, 0, 2⟩ : Fields).reservedZero = false := by decide
theorem test_wf_low_reserved_bits_refused : (⟨0, 5, 1, 2⟩ : Fields).reservedZero = false := by decide
theorem test_wf_reserved_opcodes_refused :
    (⟨0, 0, 0, 0⟩ : Fields).opcodeKnown = false ∧ (⟨0, 0, 0, 6⟩ : Fields).opcodeKnown = false ∧
    (⟨0, 0, 0, 15⟩ : Fields).opcodeKnown = false := by decide
theorem test_wf_stray_threshold_refused :
    (⟨0, 1, 0, 1⟩ : Fields).thresholdFits = false ∧ (⟨0, 256, 0, 4⟩ : Fields).thresholdFits = false ∧
    (⟨0, 511, 0, 5⟩ : Fields).thresholdFits = false := by decide
theorem test_wf_ill_formed_words_refused :
    (⟨1, 0, 0, 1⟩ : Fields).wellFormed = false ∧ (⟨0, 0, 0, 7⟩ : Fields).wellFormed = false ∧
    (⟨0, 2, 0, 4⟩ : Fields).wellFormed = false ∧ (⟨0, 511, 0, 3⟩ : Fields).wellFormed = true := by decide

/-! ### Decoding: words written out bit by bit from format C (R70) and V50 -/

theorem test_decode_gray : decode 0b00000000000000000000000000000001#32 = .instr .gray := by decide
theorem test_decode_thresh_76 : decode 0b00000000000000000100110000000010#32 = .instr (.thresh 76) := by decide
theorem test_decode_thresh_256 : decode 0b00000000000000010000000000000010#32 = .instr (.thresh 256) := by decide
theorem test_decode_bayer_40 : decode 0b00000000000000000010100000000011#32 = .instr (.bayer 40) := by decide
theorem test_decode_bayer_511 : decode 0b00000000000000011111111100000011#32 = .instr (.bayer 511) := by decide
theorem test_decode_fsd : decode 0b00000000000000000000000000000100#32 = .instr .fsd := by decide
theorem test_decode_atk : decode 0b00000000000000000000000000000101#32 = .instr .atk := by decide
theorem test_decode_reserved_bits :
    decode 0x00000012#32 = .illegal .reservedBits ∧ decode 0x00020002#32 = .illegal .reservedBits ∧
    decode 0x80000002#32 = .illegal .reservedBits ∧ decode 0xFFFFFFFF#32 = .illegal .reservedBits := by decide
theorem test_decode_reserved_opcodes :
    decode 0x00000000#32 = .illegal .reservedOpcode ∧ decode 0x00000006#32 = .illegal .reservedOpcode ∧
    decode 0x0000000F#32 = .illegal .reservedOpcode := by decide
theorem test_decode_stray_threshold :
    decode 0x00000101#32 = .illegal .strayThreshold ∧ decode 0x00000104#32 = .illegal .strayThreshold ∧
    decode 0x00000105#32 = .illegal .strayThreshold := by decide
theorem test_decode_table_word :
    decodeTableWord 32 0x00004D02 = some (.thresh 77) ∧ decodeTableWord 32 0x00000005 = some .atk ∧
    decodeTableWord 8 0x4D02 = some (.thresh 0) ∧ decodeTableWord 32 0 = none ∧
    decodeTableWord 64 0x100000001 = none := by decide

/-! ### Luminance (V10, V13) and matrix (V29) -/

theorem test_luminance_values :
    lum8 255 0 0 = 76 ∧ lum8 0 255 0 = 149 ∧ lum8 0 0 255 = 29 ∧ lum8 254 255 255 = 254 ∧ lum8 0 72 24 = 45 ∧
    lum8 3 0 0 = 0 ∧ lum8 4 0 0 = 1 := by decide
theorem test_bias_column_selects_first_index : bias 4 1 = 195 ∧ bias 4 4 = 135 ∧ bias 5 4 = 15 ∧ bias 5 5 = 135 := by
  decide

/-! ### One step of each operation -/

/-- V1, P5: the red pixel; the alpha byte is kept. -/
theorem test_gray_red_pixel :
    seen State.pix (step (busyWith .gray .scan 0 1 1 [255, 0, 0, 200] [])) = some (bytesFrom 0 [76, 76, 76, 200]) := by
  decide
/-- V17: the bytes beyond the image are kept. -/
theorem test_gray_beyond_the_image :
    seen State.pix (step (busyWith .gray .scan 0 1 1 [10, 20, 30, 40, 9, 8, 7, 6] [])) =
      some (bytesFrom 0 [18, 18, 18, 40, 9, 8, 7, 6]) := by decide
/-- V2, V3: the strict comparison at the red pixel's luminance. -/
theorem test_thresh_red_pixel :
    seen State.pix (step (busyWith (.thresh 76) .scan 0 1 1 [255, 0, 0, 200] [])) =
      some (bytesFrom 0 [255, 255, 255, 200]) ∧
    seen State.pix (step (busyWith (.thresh 77) .scan 0 1 1 [255, 0, 0, 200] [])) =
      some (bytesFrom 0 [0, 0, 0, 200]) := by decide
/-- V21: equality gives white. -/
theorem test_thresh_equality_is_white :
    seen State.pix (step (busyWith (.thresh 45) .scan 0 1 1 [0, 72, 24, 40] [])) =
      some (bytesFrom 0 [255, 255, 255, 40]) := by decide
/-- V4, V5. -/
theorem test_bayer_red_pixel :
    seen State.pix (step (busyWith (.bayer 40) .scan 0 1 1 [255, 0, 0, 200] [])) =
      some (bytesFrom 0 [255, 255, 255, 200]) ∧
    seen State.pix (step (busyWith (.bayer 77) .scan 0 1 1 [255, 0, 0, 200] [])) =
      some (bytesFrom 0 [0, 0, 0, 200]) := by decide
/-- V25 with T = 120 at position 1: a lookup with swapped indices would give black. -/
theorem test_bayer_index_order :
    seen (fun s => s.pix.read 4) (step (busyWith (.bayer 120) .scan 1 4 4 (grey [100, 100]) [])) = some (some 255) := by
  decide
/-- P3, step 9: the example of R128. -/
theorem test_fsd_step_with_negative_error :
    seen (fun s => (s.lum, s.pix.read 4, s.pos))
      (step (busyWith .fsd .pass2 1 3 2 (grey [0, 200, 50, 128, 129, 255]) [100, 242, 68, 158, 135, 255])) =
      some (bytesFrom 0 [100, 242, 61, 155, 130, 254], some 255, 2) := by decide
/-- V30: the self-update where `W = 1`, and the dropped targets. -/
theorem test_fsd_one_pixel :
    seen (fun s => (s.lum, s.pix)) (step (busyWith .fsd .pass2 0 1 1 [255, 0, 0, 200] [76])) =
      some (bytesFrom 0 [88], bytesFrom 0 [0, 0, 0, 200]) := by decide
/-- The example of R129: coincident offsets 2 and W - 1. -/
theorem test_atk_coincident_offsets :
    seen (fun s => (s.lum, s.pix.read 0))
      (step (busyWith .atk .pass2 0 3 2 (grey [100, 200, 50, 128, 129, 255]) [100, 200, 50, 128, 129, 255])) =
      some (bytesFrom 0 [100, 212, 74, 140, 141, 255], some 0) := by decide
/-- V49, first step: clamping at 0 and twice 16 taken from the same entry. -/
theorem test_atk_clamps_at_zero :
    seen (fun s => (s.lum, s.pix.read 0))
      (step (busyWith .atk .pass2 0 3 1 (grey [134, 5, 250]) [134, 5, 250])) =
      some (bytesFrom 0 [134, 0, 218], some 255) := by decide
/-- P3, steps 1 and 7: a pixel step of pass 1 and the change of pass. -/
theorem test_pass1_steps :
    seen (fun s => (s.lum, s.pos, s.phase)) (step (busyWith .fsd .pass1 1 3 2 (grey [100, 200, 50]) [100])) =
      some (bytesFrom 0 [100, 200], 2, .pass1) ∧
    seen (fun s => (s.pos, s.phase, s.statusWord)) (step (busyWith .fsd .pass1 6 3 2 [] [])) =
      some (0, .pass2, 1) := by decide
/-- P3, step 14, and V18: completion. -/
theorem test_completion :
    seen (fun s => (s.phase, s.statusWord)) (step (busyWith .fsd .pass2 6 3 2 [] [])) = some (.idle, 2) ∧
    seen (fun s => (s.phase, s.statusWord)) (step (busyWith .gray .scan 0 0 5 [] [])) = some (.idle, 2) := by decide

/-! ### Host accesses, faults, reset -/

/-- V61. -/
theorem test_width_write_ignores_high_bits :
    seen State.widthWord (step (scheduled [.host (.regWrite 2 0x0001869F)] (idleWith 1 1 []))) = some 34463 := by
  decide
/-- V62: no wrap-around of the product. -/
theorem test_capacity_product_does_not_wrap :
    seen State.statusWord (step (scheduled [.host (.regWrite 0 1)] (idleWith 256 256 []))) = some 0x24 ∧
    seen State.statusWord (step (scheduled [.host (.regWrite 0 1)] (idleWith 0 65535 []))) = some 0x01 := by decide
/-- V63: an illegal word with oversize dimensions is illegal. -/
theorem test_encoding_is_checked_before_capacity :
    seen State.statusWord (step (scheduled [.host (.regWrite 0 6)] (idleWith 5 4 []))) = some 0x14 := by decide
/-- V64: from 0x36, clearing `ERR` leaves `DONE`. -/
theorem test_status_write_one_to_clear :
    seen State.statusWord
      (step (scheduled [.host (.regWrite 1 4)] (faulted 3 { idleWith 1 1 [] with done := true }))) = some 0x02 := by
  decide
/-- V65: first cause kept. -/
theorem test_first_cause_kept :
    seen State.statusWord
      (step (scheduled [.host (.pixWrite 0 1)] (faulted 3 (busyWith .gray .scan 0 1 1 [] [])))) = some 0x35 := by
  decide
/-- V68: reset while busy. -/
theorem test_reset_while_busy :
    seen (fun s => (s.pix, s.phase, s.pos, s.cmdWord, s.widthWord))
      (step (scheduled [.reset]
        (busyWith .gray .scan 1 2 1 [76, 76, 76, 9, 0, 0, 255, 8, 1, 2, 3, 4] []))) =
      some ([(3, 9), (7, 8), (8, 1), (9, 2), (10, 3), (11, 4)], .idle, 0, 0, 0) := by decide
/-- R77, R78: `PIXEL 1, 0 0 255 8` and `CALL ATK`. -/
theorem test_script_statements :
    scriptEvents [.pixel 1 0 0 255 8, .call .atk [3]] =
      [.host (.pixWrite 4 0), .host (.pixWrite 5 0), .host (.pixWrite 6 255), .host (.pixWrite 7 8),
        .host (.regWrite 0 5), .host (.regRead 1), .engine, .engine, .engine, .host (.regRead 1)] := by decide
/-- From reset, the very next step runs the offered command (log entry 5). -/
theorem test_offered_word_runs_from_reset :
    seen (fun s => (s.phase, s.cmdWord)) (step (State.reset.withFetchWord 32 0x00002803)) =
      some (.scan, 0x00002803) := by decide

/-! ### Witnesses: encoding and luminance statements -/

theorem witness_DecodeAndEncodeAreInverse : decode 0x0001FF03#32 = .instr (.bayer 511) := by decide
theorem witness_IllegalCommandRaisesIllegalCmd :
    let s := scheduled [.host (.regWrite 0 0x00000101)] (idleWith 1 1 [])
    s.pending = .host (.regWrite 0 0x00000101) :: [] ∧ s.phase = .idle ∧ s.err = false ∧
      decode 0x00000101#32 = .illegal .strayThreshold := by decide
theorem witness_LuminanceIsMonotone_order :
    (0 : Byte) ≤ 0 ∧ (254 : Byte) ≤ 255 ∧ (7 : Byte) ≤ 9 := by decide
theorem witness_LuminanceIsMonotone_steps :
    (1 : Byte).toNat = (0 : Byte).toNat + 1 ∧ (255 : Byte).toNat = (254 : Byte).toNat + 1 := by decide
theorem witness_BiasIsTheMatrixEntry_period : 0 + 4 < 5 ∧ 0 < 1 ∧ 3 < 4 ∧ 4 < 5 := by decide
theorem witness_BiasIsTheMatrixEntry_entries : (1 ≤ 1 ∧ 1 ≤ 16) ∧ 1 ≤ 16 ∧ 16 ≤ 16 := by decide

/-! ### Witnesses: command issue and the step -/

theorem witness_AcceptanceStartsTheOperation :
    (let s := idleWith 4 4 []; s.phase = .idle ∧ s.err = false ∧ s.npix ≤ s.maxPixels) ∧
    (let s := idleWith 0 65535 []; s.phase = .idle ∧ s.err = false ∧ s.npix ≤ s.maxPixels) := by decide
theorem witness_IdleCommandIsTurnedAway :
    (let s := faulted 1 (idleWith 1 1 []); s.phase = .idle ∧ s.err = true) ∧
    (let s := idleWith 17 1 []; s.phase = .idle ∧ s.err = false ∧ s.maxPixels < s.npix) := by decide
theorem witness_CommandWriteChecksInOrder_busy :
    let s := scheduled [.host (.regWrite 0 6)] (busyWith .fsd .pass2 1 2 1 [] [1, 2])
    s.pending = .host (.regWrite 0 6) :: [] ∧ s.phase ≠ .idle ∧ s.err = false ∧
      (faulted 3 s).phase ≠ .idle ∧ (faulted 3 s).err = true := by decide
theorem witness_CommandWriteChecksInOrder_error :
    let s := scheduled [.host (.regWrite 0 1)] (faulted 1 (idleWith 5 4 []))
    s.pending = .host (.regWrite 0 1) :: [] ∧ s.phase = .idle ∧ s.err = true := by decide
theorem witness_CommandWriteChecksInOrder_encoding :
    let s := scheduled [.host (.regWrite 0 6)] (idleWith 5 4 [])
    s.pending = .host (.regWrite 0 6) :: [] ∧ s.phase = .idle ∧ s.err = false ∧
      ∃ why, decode 6#32 = .illegal why := ⟨by decide, by decide, by decide, .reservedOpcode, by decide⟩
theorem witness_CommandWriteChecksInOrder_capacity :
    let s := scheduled [.host (.regWrite 0 5)] (idleWith 17 1 [])
    s.pending = .host (.regWrite 0 5) :: [] ∧ s.phase = .idle ∧ s.err = false ∧
      (∃ i, decode 5#32 = .instr i) ∧ s.maxPixels < s.npix :=
  ⟨by decide, by decide, by decide, ⟨.atk, by decide⟩, by decide⟩
theorem witness_CommandWriteChecksInOrder_accepted :
    let s := scheduled [.host (.regWrite 0 0x0001FF02)] (idleWith 4 4 [])
    s.pending = .host (.regWrite 0 0x0001FF02) :: [] ∧ s.phase = .idle ∧ s.err = false ∧
      (∃ i, decode 0x0001FF02#32 = .instr i) ∧ s.npix ≤ s.maxPixels :=
  ⟨by decide, by decide, by decide, ⟨.thresh 511, by decide⟩, by decide⟩
theorem witness_StepRunsTheDecodedCommand_issue :
    let s := scheduled [.host (.regWrite 0 4), .engine] (idleWith 1 1 [])
    s.pending = .host (.regWrite 0 4) :: [.engine] ∧ s.phase = .idle ∧ s.err = false ∧
      decode 4#32 = .instr .fsd := by decide
theorem witness_StepRunsTheDecodedCommand_engine :
    let s := busyWith (.bayer 77) .scan 0 1 1 [1, 2, 3, 4] []
    s.pending = [] ∧ s.phase ≠ .idle ∧ decode s.cmdWord = .instr (.bayer 77) ∧
      (scheduled [.engine] s).pending = .engine :: [] := by decide
theorem witness_IdleBlockDoesNothing :
    (idleWith 1 1 []).phase = .idle ∧ (idleWith 1 1 []).pending = [] ∧
      (scheduled [.engine] (idleWith 1 1 [])).pending = .engine :: [] := by decide

/-! ### Witnesses: pointwise operations -/

theorem witness_GrayPixelStep :
    (let s := busyWith .gray .scan 0 1 1 [255, 0, 0, 200] []; s.phase = .scan ∧ s.pos < s.npix) ∧
    (let s := busyWith .gray .scan 15 4 4 [] []; s.phase = .scan ∧ s.pos < s.npix) := by decide
theorem witness_ThreshPixelStep :
    let s := busyWith (.thresh 256) .scan 7 8 1 [] []
    s.phase = .scan ∧ s.pos < s.npix := by decide
theorem witness_BayerPixelStep :
    let s := busyWith (.bayer 248) .scan 15 1 16 [] []
    s.phase = .scan ∧ s.pos < s.npix := by decide
theorem witness_PointwiseCompletionStep :
    (let s := busyWith .gray .scan 16 4 4 [] []; s.phase = .scan ∧ s.pos = s.npix) ∧
    (let s := busyWith .gray .scan 0 5 0 [] []; s.phase = .scan ∧ s.pos = s.npix) := by decide
theorem witness_ThresholdSaturates :
    256 ≤ (256 : BitVec 9).toNat ∧ 256 ≤ (511 : BitVec 9).toNat ∧ 248 ≤ (248 : BitVec 9).toNat ∧
      (7 : BitVec 9).toNat ≤ 7 ∧ (0 : BitVec 9).toNat ≤ 7 ∧ (busyWith (.bayer 7) .scan 0 1 1 [] []).phase = .scan := by
  decide
theorem witness_GrayRunReplacesEveryPixel :
    let s := busyWith .gray .scan 0 1 1 [255, 0, 0, 200] []
    s.phase = .scan ∧ s.pos = 0 ∧ decode s.cmdWord = .instr .gray ∧ 1 ≤ s.npix ∧ 0 < s.npix ∧
      s.pix.read (4 * 0) = some 255 ∧ s.pix.read (4 * 0 + 1) = some 0 ∧ s.pix.read (4 * 0 + 2) = some 0 := by decide
theorem witness_ThreshAndBayerRunsBinariseEveryPixel :
    let s := busyWith (.thresh 76) .scan 0 1 1 [255, 0, 0, 200] []
    let u := busyWith (.bayer 76) .scan 0 1 1 [255, 0, 0, 200] []
    s.phase = .scan ∧ s.pos = 0 ∧ decode s.cmdWord = .instr (.thresh 76) ∧
      u.phase = .scan ∧ u.pos = 0 ∧ decode u.cmdWord = .instr (.bayer 76) ∧ 1 ≤ s.npix ∧ 0 < s.npix ∧
      s.pix.read (4 * 0) = some 255 ∧ s.pix.read (4 * 0 + 1) = some 0 ∧ s.pix.read (4 * 0 + 2) = some 0 := by decide
theorem witness_PointwiseRunsAreIdempotent :
    let s := busyWith (.bayer 100) .scan 0 4 1 (grey [255, 0, 255, 0]) []
    s.phase = .scan ∧ s.pos = 0 ∧ decode s.cmdWord = .instr (.bayer 100) ∧ (Instr.bayer 100).opcode = 3 := by decide

/-! ### Witnesses: error diffusion -/

theorem witness_Pass1PixelStep :
    let s := busyWith .atk .pass1 15 4 4 [] []
    s.phase = .pass1 ∧ s.pos < s.npix := by decide
theorem witness_ChangeOfPass :
    (let s := busyWith .fsd .pass1 16 4 4 [] []; s.phase = .pass1 ∧ s.pos = s.npix) ∧
    (let s := busyWith .atk .pass1 0 0 0 [] []; s.phase = .pass1 ∧ s.pos = s.npix) := by decide
theorem witness_ErrorQuotientTable :
    (0 : Int) < 16 ∧ (128 : Byte).toNat ≤ 128 ∧ 129 ≤ (129 : Byte).toNat ∧
      (255 ≤ (239 : Byte).toNat + 16 * 1 ∧ (239 : Byte).toNat + 16 * 1 ≤ 270) ∧
      (255 ≤ (158 : Byte).toNat + 16 * 7 ∧ (158 : Byte).toNat + 16 * 7 ≤ 270) ∧
      (255 ≤ (247 : Byte).toNat + 8 * 1 ∧ (247 : Byte).toNat + 8 * 1 ≤ 262) ∧
      (255 ≤ (142 : Byte).toNat + 8 * 15 ∧ (142 : Byte).toNat + 8 * 15 ≤ 262) ∧
      (142 : Byte).toNat ≤ 142 ∧ (134 : Byte).toNat ≤ 134 := by decide
theorem witness_AccumulatorClampsOrDrops :
    let s := busyWith .fsd .pass2 0 3 2 [] [1, 2, 3, 4, 5, 6]
    5 < s.npix ∧ s.lum.read 5 = some 6 ∧ s.npix ≤ 6 ∧ s.npix ≤ 15 ∧ (1, 7) ∈ fsdNeighbours 3 ∧
      (6, 1) ∈ atkNeighbours 3 := by decide
theorem plane_filled_small :
    State.PlaneFilled (busyWith .fsd .pass2 0 2 1 [] [250, 3]) 2 := by
  intro j hj
  have : j = 0 ∨ j = 1 := by omega
  rcases this with rfl | rfl <;> decide
theorem witness_ContributionsOfOnePositionCommute :
    let s := busyWith .fsd .pass2 0 2 1 [] [250, 3]
    ((0 : Int) ≤ 56 ∧ (0 : Int) ≤ 0) ∧ ((-56 : Int) ≤ 0 ∧ (-1 : Int) ≤ 0) ∧ s.lum.wf ∧ s.PlaneFilled s.npix :=
  ⟨by decide, by decide, by decide, plane_filled_small⟩
theorem witness_FsdPass2PixelStep :
    let s := busyWith .fsd .pass2 1 3 2 [] [100, 242, 68, 158, 135, 255]
    s.phase = .pass2 ∧ s.pos < s.npix ∧ 5 < s.npix ∧ s.lum.read 5 = some 255 ∧ s.npix ≤ 6 ∧
      0 ∉ [s.pos + 1, s.pos + (s.width.toNat - 1), s.pos + s.width.toNat, s.pos + (s.width.toNat + 1)] := by decide
theorem witness_AtkPass2PixelStep :
    let s := busyWith .atk .pass2 0 3 2 [] [100, 200, 50, 128, 129, 255]
    s.phase = .pass2 ∧ s.pos < s.npix ∧ 2 < s.npix ∧ s.lum.read 2 = some 50 ∧ s.npix ≤ 6 ∧
      5 ∉ [s.pos + 1, s.pos + 2, s.pos + (s.width.toNat - 1), s.pos + s.width.toNat, s.pos + (s.width.toNat + 1),
        s.pos + 2 * s.width.toNat] := by decide
theorem witness_DiffusionCompletionStep :
    let s := busyWith .fsd .pass2 6 3 2 [] []
    s.phase = .pass2 ∧ s.pos = s.npix := by decide
theorem witness_DiffusionIsForwardOnly :
    let s := busyWith .atk .pass2 1 2 1 [] [1, 2]
    s.phase = .pass2 ∧ s.pos < s.npix ∧ 0 < s.pos ∧ s.width.toNat ≠ 1 := by decide
theorem witness_DiffusionRunsFollowThePlane :
    let s := busyWith .fsd .pass1 0 1 1 [255, 0, 0, 200] []
    let u := busyWith .atk .pass1 0 1 1 [255, 0, 0, 200] []
    (s.phase = .pass1 ∧ s.pos = 0 ∧ decode s.cmdWord = .instr .fsd) ∧
      (u.phase = .pass1 ∧ u.pos = 0 ∧ decode u.cmdWord = .instr .atk) ∧ u.pix = s.pix ∧ u.npix = s.npix ∧
      ∀ l, l < s.npix → ∃ r g b, s.pix.read (4 * l) = some r ∧ s.pix.read (4 * l + 1) = some g ∧
        s.pix.read (4 * l + 2) = some b ∧ (76 : Int) = ((299 * r.toNat + 587 * g.toNat + 114 * b.toNat) / 1000 : Nat) := by
  refine ⟨by decide, by decide, rfl, rfl, fun l hl => ?_⟩
  have h1 : State.npix (busyWith .fsd .pass1 0 1 1 [255, 0, 0, 200] []) = 1 := by decide
  have : l = 0 := by omega
  subst this
  exact ⟨255, 0, 0, by decide, by decide, by decide, by decide⟩

/-! ### Witnesses: host accesses and faults -/

theorem witness_RegReadReturnsTheRegister :
    (scheduled [.host (.regRead 0)] (idleWith 1 1 [])).pending = .host (.regRead 0) :: [] ∧
      (scheduled [.host (.regRead 3)] (idleWith 1 1 [])).pending = .host (.regRead 3) :: [] := by decide
theorem witness_DimensionWrite :
    let s := idleWith 1 1 []
    let b := busyWith .gray .scan 0 1 1 [] []
    s.phase = .idle ∧ b.phase ≠ .idle ∧
      (scheduled [.host (.regWrite 2 0x00010003)] s).pending = .host (.regWrite 2 0x00010003) :: [] ∧
      (scheduled [.host (.regWrite 3 0xFFFFFFFF)] s).pending = .host (.regWrite 3 0xFFFFFFFF) :: [] ∧
      (scheduled [.host (.regWrite 2 7)] b).pending = .host (.regWrite 2 7) :: [] := by decide
theorem witness_StatusWriteOneToClear :
    (scheduled [.host (.regWrite 1 0xFFFFFFF9)] (busyWith .atk .pass1 0 1 1 [] [])).pending =
      .host (.regWrite 1 0xFFFFFFF9) :: [] := by decide
theorem witness_PixelRead :
    (let s := scheduled [.host (.pixRead 63)] (idleWith 1 1 [])
     s.pending = .host (.pixRead 63) :: [] ∧ 63 < 4 * s.maxPixels ∧ s.phase = .idle) ∧
    (let s := scheduled [.host (.pixRead 0)] (busyWith .gray .scan 0 1 1 [] [])
     s.pending = .host (.pixRead 0) :: [] ∧ 0 < 4 * s.maxPixels ∧ s.phase ≠ .idle) ∧
    (let s := scheduled [.host (.pixRead 64)] (idleWith 1 1 [])
     s.pending = .host (.pixRead 64) :: [] ∧ 4 * s.maxPixels ≤ 64) := by decide
theorem witness_PixelWrite :
    (let s := scheduled [.host (.pixWrite 63 128)] (idleWith 1 1 [])
     s.pending = .host (.pixWrite 63 128) :: [] ∧ 63 < 4 * s.maxPixels ∧ s.phase = .idle) ∧
    (let s := scheduled [.host (.pixWrite 0 1)] (busyWith .gray .scan 0 1 1 [] [])
     s.pending = .host (.pixWrite 0 1) :: [] ∧ 0 < 4 * s.maxPixels ∧ s.phase ≠ .idle) ∧
    (let s := scheduled [.host (.pixWrite 64 1)] (idleWith 1 1 [])
     s.pending = .host (.pixWrite 64 1) :: [] ∧ 4 * s.maxPixels ≤ 64) := by decide
theorem witness_PixelWriteThenRead :
    let s := scheduled [.host (.pixWrite 5 128), .host (.pixRead 4)] (idleWith 2 1 [0, 0, 0, 9, 7, 0, 0, 8])
    s.pending = [.host (.pixWrite 5 128), .host (.pixRead 4)] ∧ s.phase = .idle ∧ 5 < 4 * s.maxPixels ∧
      4 < 4 * s.maxPixels ∧ s.pix.read 4 = some 7 := by decide
theorem witness_BusAccessNamesARegister :
    ((4 : Nat) = 4 ∧ 12 % 4 = 0) ∧ ¬((2 : Nat) = 4 ∧ 12 % 4 = 0) ∧ ¬((4 : Nat) = 4 ∧ 13 % 4 = 0) := by decide
theorem witness_HostCannotDisturbARunningOperation :
    let s := busyWith .fsd .pass1 0 1 1 [] []
    s.phase ≠ .idle ∧ hostAccess (.regWrite 2 7) s = .next (faulted 3 s) := ⟨by decide, rfl⟩
theorem witness_ScriptExpansions :
    (0 < 1 ∧ 15 < 16) ∧ ([7, 8, 9] : List Byte)[0]? = some 7 ∧ ([7, 8, 9] : List Byte)[2]? = some 9 := by decide
theorem witness_FaultEntryChangesOnlyErrAndCause :
    (idleWith 1 1 []).err = false ∧ (faulted 4 (idleWith 1 1 [])).err = true := by decide
theorem witness_FirstCauseIsKept :
    (let s := scheduled [.host (.pixWrite 0 1)] (faulted 3 (busyWith .gray .scan 0 1 1 [] []))
     step s = .next (scheduled [] s) ∧ s.err = true) ∧
    (let s := scheduled [.host (.pixWrite 0 1)] (busyWith .gray .scan 0 1 1 [] [])
     step s = .next (faulted 4 (scheduled [] s)) ∧ s.err = false ∧ (faulted 4 s).err = true) :=
  ⟨⟨rfl, rfl⟩, rfl, rfl, rfl⟩
theorem witness_EngineStepsIgnoreFaults :
    let s := busyWith .gray .scan 0 0 5 [] []
    s.phase ≠ .idle ∧ exec .gray s = .next { s with phase := .idle, done := true } := ⟨by decide, rfl⟩
theorem witness_AlphaAndBytesBeyondTheImageAreUntouched :
    let s := busyWith .gray .scan 1 1 1 [] []
    exec .gray s = .next { s with phase := .idle, done := true } ∧ 3 % 4 = 3 ∧ 4 * s.npix ≤ 4 := ⟨rfl, by decide⟩
theorem witness_NoStepInAPhaseOfTheOtherKind :
    (busyWith .fsd .pass1 0 1 1 [] []).phase = .pass1 ∧ (busyWith .fsd .pass2 0 1 1 [] []).phase = .pass2 ∧
      (busyWith .gray .scan 0 1 1 [] []).phase = .scan := by decide

/-! ### Witnesses: reset, flags, phases, the invariant and runs -/

theorem witness_ResetTransition :
    (let s := scheduled [.reset] (idleWith 1 1 []); s.pending = .reset :: [] ∧ s.phase = .idle) ∧
    (let s := scheduled [.reset] (busyWith .gray .scan 1 2 1 [] [])
     s.pending = .reset :: [] ∧ s.phase ≠ .idle ∧ (6 < 4 * s.npix ∧ 6 % 4 ≠ 3) ∧ 4 * s.npix ≤ 8 ∧ 7 % 4 = 3) := by
  decide
theorem witness_PhaseTransitions :
    let s := busyWith .fsd .pass1 0 0 0 [] []
    step s = .next { s with phase := .pass2 } := rfl
theorem witness_DoneIsSetOnlyAtCompletion :
    (let s := busyWith .gray .scan 0 0 0 [] []
     step s = .next { s with phase := .idle, done := true } ∧ s.done = false) ∧
    (let s := scheduled [.host (.regWrite 1 2)] { idleWith 1 1 [] with done := true }
     step s = .next { s with pending := [], done := false } ∧ s.done = true) := ⟨⟨rfl, rfl⟩, rfl, rfl⟩

/-- A one-pixel block in pass 2 of `FSD`: its invariant holds. -/
theorem inv_small : (busyWith .fsd .pass2 0 1 1 [255, 0, 0, 200] [76]).Inv where
  capacity := by decide
  pixWithin := by
    refine ⟨by decide, fun a ha => ?_⟩
    have h16 : 64 ≤ a := ha
    simp only [busyWith, idleWith, bytesFrom, Memory.read]
    rw [if_neg (by omega), if_neg (by omega), if_neg (by omega), if_neg (by omega)]
  lumWithin := by
    refine ⟨by decide, fun a ha => ?_⟩
    have h16 : 16 ≤ a := ha
    simp only [busyWith, idleWith, bytesFrom, Memory.read]
    rw [if_neg (by omega)]
  posWithin := by decide
  busyFits := fun _ => by decide
  scanOperation := fun h => by cases h
  passOperation := fun _ => ⟨.fsd, by decide, by decide⟩
  causeIffErr := by decide
  doneIdle := by decide
  pass1Filled := fun h => by cases h
  pass2Filled := fun _ j hj => by
    have h1 : State.npix (busyWith .fsd .pass2 0 1 1 [255, 0, 0, 200] [76]) = 1 := by decide
    have : j = 0 := by omega
    subst this
    decide

theorem witness_EveryStepKeepsTheInvariant :
    (busyWith .fsd .pass2 0 1 1 [255, 0, 0, 200] [76]).Inv ∧
      ∃ t, step (busyWith .fsd .pass2 0 1 1 [255, 0, 0, 200] [76]) = .next t := ⟨inv_small, _, rfl⟩
theorem witness_NoStepStopsWithAFault : (busyWith .fsd .pass2 0 1 1 [255, 0, 0, 200] [76]).Inv := inv_small
theorem witness_EngineAlwaysCompletes :
    let s := busyWith .fsd .pass2 0 1 1 [255, 0, 0, 200] [76]
    s.Inv ∧ s.phase ≠ .idle := ⟨inv_small, by decide⟩
theorem witness_SynchronousCallCompletes :
    let s := scheduled [.host (.regWrite 0 0x00004C02)] (idleWith 4 4 [])
    s.pending = (Stmt.command (.thresh 76)).events ∧ s.phase = .idle ∧ s.err = false ∧ s.npix ≤ s.maxPixels ∧
      (1 ≤ 1 ∧ 1 ≤ engineSteps (.thresh 76) s.npix ∧ 17 ≤ engineSteps (.thresh 76) s.npix) ∧
      (3 % 4 = 3 ∧ 4 * s.npix ≤ 64) := by decide

end Sys2Proof.Tests
end

section
/-! SUPPORT. What the invariant of the machine says operation by operation: every named update of the state keeps
`State.Inv`, so every meaning and every transition does (10_state.md R41). -/

namespace Sys2Proof.Machine

/-! ### The served state, field by field -/

@[simp] theorem State.served_done (s : State) : s.served.done = s.done := rfl
@[simp] theorem State.served_err (s : State) : s.served.err = s.err := rfl
@[simp] theorem State.served_cause (s : State) : s.served.cause = s.cause := rfl
@[simp] theorem State.served_phase (s : State) : s.served.phase = s.phase := rfl

/-! ### Operations and their command words -/

/-- `decode` undoes `encode` (R75). -/
theorem decode_encode (i : Instr) : decode (encode i) = .instr i := by
  have hs : splitWord (encode i) = i.fields := splitWord_joinFields _
  cases i <;> simp [decode, hs, Instr.fields, Instr.opcode, Instr.threshold, withoutThreshold]

/-- The accepted command is the one `CMD` reads as (R23, R152). -/
theorem State.decode_cmdWord_accept (i : Instr) (p : Phase) (s : State) :
    decode (s.accept i.opcode i.threshold p).cmdWord = .instr i := decode_encode i

theorem firstPhase_scan_or_pass1 (i : Instr) : firstPhase i = .scan ∨ firstPhase i = .pass1 := by
  cases i <;> simp [firstPhase]

theorem opcode_of_firstPhase_scan {i : Instr} (h : firstPhase i = .scan) :
    i.opcode = 1 ∨ i.opcode = 2 ∨ i.opcode = 3 := by
  cases i <;> simp_all [firstPhase, Instr.opcode]

theorem opcode_of_firstPhase_pass1 {i : Instr} (h : firstPhase i = .pass1) : i.opcode = 4 ∨ i.opcode = 5 := by
  cases i <;> simp_all [firstPhase, Instr.opcode]

theorem Cause.code_ne_zero (c : Cause) : c.code ≠ 0 := by cases c <;> decide

theorem Memory.Within.writeRgb {s : State} {n : Nat} (h : s.pix.Within (4 * n)) {l : Nat} (hl : l < n) (v : Byte) :
    (s.writeRgb l v).pix.Within (4 * n) :=
  ((h.write (by omega) v).write (by omega) v).write (by omega) v

/-! ### The luminance plane (R35, R53) -/

theorem State.PlaneFilled.writeLum {s : State} {n : Nat} (h : s.PlaneFilled n) (l : Nat) (v : Byte) :
    (s.writeLum l v).PlaneFilled n := fun j hj => by
  rw [State.writeLum_lum, Memory.read_write]
  split
  · simp
  · exact h j hj

/-- Writing the next entry extends the filled part of the plane by one. -/
theorem State.PlaneFilled.writeLum_succ {s : State} {n : Nat} (h : s.PlaneFilled n) (v : Byte) :
    (s.writeLum n v).PlaneFilled (n + 1) := fun j hj => by
  by_cases hn : j = n
  · simp [hn]
  · exact h.writeLum n v j (by omega)

namespace State.Inv

variable {s : State}

/-- An idle block meets the invariant when its memories, `POS` and fault registers do. -/
theorem of_idle (hi : s.phase = .idle) (hcap : 1 ≤ s.maxPixels) (hpix : s.pix.Within (4 * s.maxPixels))
    (hlum : s.lum.Within s.maxPixels) (hpos : s.pos ≤ s.maxPixels) (hcause : s.cause = 0 ↔ s.err = false) :
    s.Inv where
  capacity := hcap
  pixWithin := hpix
  lumWithin := hlum
  posWithin := hpos
  busyFits := fun h => absurd hi h
  scanOperation := by simp [hi]
  passOperation := by simp [hi]
  causeIffErr := hcause
  doneIdle := fun _ => hi
  pass1Filled := by simp [hi]
  pass2Filled := by simp [hi]

/-- The flags and the model's own fields may change as long as R41(d) and R41(e) hold. -/
theorem withFlags (h : s.Inv) {done err : Bool} {cause : BitVec 4} (pending : List Event) (replies : List Reply)
    (draws : Nat) (hcause : cause = 0 ↔ err = false) (hdone : done = true → s.done = true) :
    { s with done := done, err := err, cause := cause, pending := pending, replies := replies, draws := draws }.Inv :=
  { h with causeIffErr := hcause, doneIdle := fun hd => h.doneIdle (hdone hd) }

theorem served (h : s.Inv) : s.served.Inv := h.withFlags _ _ _ h.causeIffErr id

theorem reply (h : s.Inv) (r : Reply) : (s.reply r).Inv := h.withFlags _ _ _ h.causeIffErr id

theorem spendDraws (h : s.Inv) (k : Nat) : (s.spendDraws k).Inv := h.withFlags _ _ _ h.causeIffErr id

theorem raise (h : s.Inv) (c : Cause) : (s.raise c).Inv := by
  unfold State.raise
  split
  · exact h
  · exact h.withFlags _ _ _ (by simpa using c.code_ne_zero) id

theorem clearDoneIf (h : s.Inv) (b : Bool) : (s.clearDoneIf b).Inv := by
  unfold State.clearDoneIf
  split
  · exact h.withFlags _ _ _ h.causeIffErr (by simp)
  · exact h

theorem acknowledgeIf (h : s.Inv) (b : Bool) : (s.acknowledgeIf b).Inv := by
  unfold State.acknowledgeIf
  split
  · exact h.withFlags _ _ _ (by simp) id
  · exact h

theorem writePix (h : s.Inv) {m : Memory} (hm : m.Within (4 * s.maxPixels)) : { s with pix := m }.Inv :=
  { h with pixWithin := hm }

theorem writeRgb (h : s.Inv) {l : Nat} (hl : l < s.maxPixels) (v : Byte) : (s.writeRgb l v).Inv :=
  h.writePix (h.pixWithin.writeRgb hl v)

theorem writeLum (h : s.Inv) {l : Nat} (hl : l < s.maxPixels) (v : Byte) : (s.writeLum l v).Inv :=
  { h with
    lumWithin := h.lumWithin.write hl v
    pass1Filled := fun hp => (h.pass1Filled hp).writeLum l v
    pass2Filled := fun hp => (h.pass2Filled hp).writeLum l v }

theorem setPos (h : s.Inv) {l : Nat} (hn : s.npix ≤ s.maxPixels) (hl : l ≤ s.npix)
    (hf : s.phase = .pass1 → s.PlaneFilled l) : (s.setPos l).Inv :=
  { h with posWithin := hl.trans hn, busyFits := fun _ => ⟨hn, hl⟩, pass1Filled := hf }

/-- `ACC` (R125) reaches no entry beyond the plane. -/
theorem acc (h : s.Inv) (hn : s.npix ≤ s.maxPixels) (j : Nat) (c : Int) : (s.acc j c).Inv := by
  unfold State.acc
  split
  · next hj => exact (h.writeLum (hj.trans_le hn) _).spendDraws 1
  · exact h

theorem diffuse (h : s.Inv) (hn : s.npix ≤ s.maxPixels) (l : Nat) (e : Int) (ns : List (Nat × Int)) :
    (State.diffuse l e ns s).Inv := by
  induction ns generalizing s with
  | nil => exact h
  | cons n ns ih => exact ih (h.acc hn _ _) (by simpa using hn)

theorem complete (h : s.Inv) : s.complete.Inv :=
  .of_idle rfl h.capacity h.pixWithin h.lumWithin h.posWithin h.causeIffErr

theorem accept (h : s.Inv) (hn : s.npix ≤ s.maxPixels) (i : Instr) :
    (s.accept i.opcode i.threshold (firstPhase i)).Inv where
  capacity := h.capacity
  pixWithin := h.pixWithin
  lumWithin := h.lumWithin
  posWithin := Nat.zero_le _
  busyFits := fun _ => ⟨hn, Nat.zero_le _⟩
  scanOperation := fun hp => ⟨i, State.decode_cmdWord_accept i _ s, opcode_of_firstPhase_scan hp⟩
  passOperation := fun hp => by
    refine ⟨i, State.decode_cmdWord_accept i _ s, opcode_of_firstPhase_pass1 ?_⟩
    rcases firstPhase_scan_or_pass1 i with h1 | h1 <;> simp_all
  causeIffErr := h.causeIffErr
  doneIdle := by simp
  pass1Filled := fun _ j hj => absurd hj (Nat.not_lt_zero j)
  pass2Filled := fun hp => by rcases firstPhase_scan_or_pass1 i with h1 | h1 <;> simp_all

theorem issue (h : s.Inv) (i : Instr) : (s.issue i.opcode i.threshold (firstPhase i)).Inv := by
  unfold State.issue
  split
  · exact h
  · split
    · exact h.raise _
    · next hn => exact h.accept (Nat.le_of_not_lt hn) i

/-- The reset transition (R191, R192): the block is idle and its memories hold no more than before. -/
theorem resetBlock (h : s.Inv) : s.resetBlock.Inv := by
  refine .of_idle rfl h.capacity ?_ (Memory.Within.nil _) (Nat.zero_le _) (by simp)
  rw [State.resetBlock_pix]
  split
  · exact h.pixWithin.forget _
  · exact h.pixWithin

/-! ### The steps of the sequencer -/

theorem scanStep (h : s.Inv) (hp : s.phase = .scan) (out : Byte → Byte → Byte → Byte) : (s.scanStep out).Inv := by
  obtain ⟨hn, -⟩ := h.busyFits (by simp [hp])
  unfold State.scanStep
  split
  · next hl => exact ((h.writeRgb (hl.trans_le hn) _).setPos hn hl (by simp [hp])).spendDraws 3
  · exact h.complete

/-- A pixel step of pass 1 fills the plane entry at `POS`; at the change of pass the whole plane is filled. -/
theorem pass1Step (h : s.Inv) (hp : s.phase = .pass1) : s.pass1Step.Inv := by
  obtain ⟨hn, hpos⟩ := h.busyFits (by simp [hp])
  have hf : s.PlaneFilled s.pos := h.pass1Filled hp
  unfold State.pass1Step
  split
  · next hl => exact ((h.writeLum (hl.trans_le hn) _).setPos hn hl fun _ => hf.writeLum_succ _).spendDraws 3
  · next hl =>
    have hend : s.pos = s.npix := by omega
    exact { h with
      posWithin := Nat.zero_le _
      busyFits := fun _ => ⟨hn, Nat.zero_le _⟩
      scanOperation := by simp
      passOperation := fun _ => h.passOperation (.inl hp)
      doneIdle := fun hd => absurd (h.doneIdle hd) (by simp [hp])
      pass1Filled := by simp
      pass2Filled := fun _ => hend ▸ hf }

theorem pass2Step (h : s.Inv) (hp : s.phase = .pass2) (d : Int) (ns : List (Nat × Int)) : (s.pass2Step d ns).Inv := by
  obtain ⟨hn, -⟩ := h.busyFits (by simp [hp])
  unfold State.pass2Step
  split
  · next hl =>
    have hw := (h.writeRgb (hl.trans_le hn) (binarise (s.lumAt s.pos))).spendDraws 1
    exact (hw.diffuse hn _ _ ns).setPos (by simpa using hn) (by simpa using hl) (by simp [hp])
  · exact h.complete

/-! ### Every transition -/

theorem of_exec {i : Instr} {t : State} (h : s.Inv) (he : exec i s = .next t) : t.Inv := by
  obtain ⟨-, rfl⟩ | ⟨hp, -, rfl⟩ | ⟨hp, -, rfl⟩ | ⟨hp, -, d, ns, rfl⟩ := exec_next_cases he
  · exact h.issue i
  · exact h.scanStep hp _
  · exact h.pass1Step hp
  · exact h.pass2Step hp d ns

theorem of_transition {e : Option Event} {t : State} (h : s.Inv) (ht : Transition s e s.served t) : t.Inv := by
  have hu : s.served.Inv := h.served
  cases ht with
  | operation i _ _ _ _ he => exact hu.of_exec he
  | rest => exact hu
  | command _ _ i _ _ _ _ _ _ he => exact hu.of_exec he
  | dropped => exact hu
  | faulted _ c => exact hu.raise c
  | registerRead => exact hu.reply _
  | statusWritten => exact (hu.clearDoneIf _).acknowledgeIf _
  | widthWritten _ _ _ hi => exact .of_idle hi hu.capacity hu.pixWithin hu.lumWithin hu.posWithin hu.causeIffErr
  | heightWritten _ _ _ hi => exact .of_idle hi hu.capacity hu.pixWithin hu.lumWithin hu.posWithin hu.causeIffErr
  | pixelRead => exact (hu.reply _).spendDraws 1
  | pixelReadBusy => exact ((hu.reply _).spendDraws 1).raise _
  | pixelWritten _ b _ _ ho => exact hu.writePix (hu.pixWithin.write ho b)
  | reset => exact hu.resetBlock

end State.Inv

/-- Settles O55: the step made one of the machine's transitions, and each of them keeps the invariant. -/
theorem everyStepKeepsTheInvariant : Obligations.EveryStepKeepsTheInvariant :=
  fun _ _ hs h => hs.of_transition (step_transition h)

/-- Settles O54. -/
theorem resetMeetsTheInvariant : Obligations.ResetMeetsTheInvariant :=
  .of_idle rfl (Nat.succ_pos _) (Memory.Within.nil _) (Memory.Within.nil _) (Nat.zero_le _) (by decide)

end Sys2Proof.Machine
end

section
/-! SUPPORT. What one step does to `PHASE` and `DONE` and to `ERR` and `CAUSE`, each said once for every transition. -/

namespace Sys2Proof.Machine

/-- A served entry stands first in the schedule. -/
theorem exists_pending_of_head? {s : State} {e : Event} (h : s.pending.head? = some e) :
    ∃ rest, s.pending = e :: rest :=
  List.head?_eq_some_iff.1 h

theorem Event.WritesRegister.exists_access {idx : Nat} {v : Word} {e : Event} (h : e.WritesRegister idx v) :
    ∃ a, e = .host a := by
  rcases h with rfl | rfl
  · exact ⟨_, rfl⟩
  · exact ⟨_, rfl⟩

/-! ### `PHASE` and `DONE` (R26, R28) -/

/-- What a transition that serves `e` does to `PHASE` and `DONE`. -/
inductive PhaseMove (s : State) (e : Option Event) (t : State) : Prop where
  /-- neither changes -/
  | kept : t.phase = s.phase → t.done = s.done → PhaseMove s e t
  /-- a command is accepted (R152) -/
  | accepted (ev : Event) (v : Word) : e = some ev → ev.WritesRegister 0 v → s.phase = .idle →
      t.phase = .scan ∨ t.phase = .pass1 → t.pos = 0 → t.done = false → PhaseMove s e t
  /-- pass 1 ends (R122) -/
  | passChanged : s.phase = .pass1 → t.phase = .pass2 → t.pos = 0 → t.done = s.done → PhaseMove s e t
  /-- an operation completes (R100, R130) -/
  | completed : s.phase = .scan ∨ s.phase = .pass2 → t.phase = .idle → t.done = true → PhaseMove s e t
  /-- the host writes `STATUS` (R153) -/
  | statusWritten (ev : Event) (v : Word) : e = some ev → ev.WritesRegister 1 v → t.phase = s.phase →
      t.done = (s.done && !v.getLsbD 1) → PhaseMove s e t
  /-- reset (R191) -/
  | reset : e = some .reset → t.phase = .idle → t.done = false → PhaseMove s e t

/-- An engine step keeps `PHASE` and `DONE`, changes the pass or completes the operation. -/
theorem phaseMove_of_exec_busy {i : Instr} {s t : State} (e : Option Event) (hb : s.phase ≠ .idle)
    (h : exec i s.served = .next t) : PhaseMove s e t := by
  obtain ⟨hp, -⟩ | ⟨hp, -, rfl⟩ | ⟨hp, -, rfl⟩ | ⟨hp, -, d, ns, rfl⟩ := exec_next_cases h
  · exact absurd hp hb
  · obtain ⟨-, _, _, _, -, -, -, -, ht⟩ | ⟨-, ht⟩ := s.served.scanStep_cases (outputFunction i s.served)
    · rw [ht]; exact .kept rfl rfl
    · rw [ht]; exact .completed (.inl hp) rfl rfl
  · obtain ⟨-, _, _, _, -, -, -, ht⟩ | ⟨-, ht⟩ := s.served.pass1Step_cases
    · rw [ht]; exact .kept rfl rfl
    · rw [ht]; exact .passChanged hp rfl rfl rfl
  · obtain ⟨-, _, _, -, -, -, -, -, -, ht⟩ | ⟨-, ht⟩ := s.served.pass2Step_cases d ns
    · rw [ht]; exact .kept rfl rfl
    · rw [ht]; exact .completed (.inr hp) rfl rfl

/-- A legal command is accepted, or it changes neither `PHASE` nor `DONE`. -/
theorem phaseMove_of_exec_idle {i : Instr} {s t : State} {ev : Event} {v : Word} (hw : ev.WritesRegister 0 v)
    (hi : s.phase = .idle) (h : exec i s.served = .next t) : PhaseMove s (some ev) t := by
  rw [exec_idle (s := s.served) hi, Host.Outcome.next.injEq] at h
  subst h
  obtain ⟨-, ht⟩ | ⟨-, -, ht⟩ | ⟨-, -, ht⟩ := s.served.issue_cases i.opcode i.threshold (firstPhase i)
  · rw [ht]; exact .kept rfl rfl
  · rw [ht]; exact .kept rfl rfl
  · rw [ht]; exact .accepted ev v rfl hw hi (firstPhase_scan_or_pass1 i) rfl rfl

theorem Transition.phaseMove {s t : State} {e : Option Event} (h : Transition s e s.served t) : PhaseMove s e t := by
  cases h with
  | operation i _ _ hb _ hx => exact phaseMove_of_exec_busy e hb hx
  | rest => exact .kept rfl rfl
  | command ev v i _ he hw hi _ _ hx => exact he ▸ phaseMove_of_exec_idle hw hi hx
  | dropped => exact .kept rfl rfl
  | faulted => exact .kept (by simp) (by simp)
  | registerRead => exact .kept rfl rfl
  | statusWritten ev v he hw => exact .statusWritten ev v he hw (by simp) (by simp)
  | widthWritten => exact .kept rfl rfl
  | heightWritten => exact .kept rfl rfl
  | pixelRead => exact .kept rfl rfl
  | pixelReadBusy => exact .kept (by simp) (by simp)
  | pixelWritten => exact .kept rfl rfl
  | reset he => exact .reset he rfl rfl

/-- Settles O52: each move of `PHASE` is one of the listed ones. -/
theorem phaseTransitions : Obligations.PhaseTransitions := by
  intro s t h
  cases (step_transition h).phaseMove with
  | kept hp => exact .inl hp
  | accepted ev v he hw hi hp h0 hd =>
    obtain ⟨rest, hr⟩ := exists_pending_of_head? he
    exact .inr (.inl ⟨hi, hp, h0, hd, ev, rest, v, hr, hw⟩)
  | passChanged hi hp h0 => exact .inr (.inr (.inr (.inl ⟨hi, hp, h0⟩)))
  | completed hi hp hd =>
    rcases hi with hi | hi
    · exact .inr (.inr (.inl ⟨hi, hp, hd⟩))
    · exact .inr (.inr (.inr (.inr (.inl ⟨hi, hp, hd⟩))))
  | statusWritten _ _ _ _ hp => exact .inl hp
  | reset he hp => exact .inr (.inr (.inr (.inr (.inr ⟨hp, exists_pending_of_head? he⟩))))

/-- Settles O53: of the moves of `PHASE` and `DONE`, completion alone sets `DONE`; acceptance, a write to `STATUS` and
reset alone clear it. -/
theorem doneIsSetOnlyAtCompletion : Obligations.DoneIsSetOnlyAtCompletion := by
  intro s t h
  cases (step_transition h).phaseMove with
  | kept _ hd => simp_all
  | accepted ev v he hw hi hp _ hd =>
    refine ⟨fun _ ht => by simp_all, fun _ _ => .inl ⟨hi, ?_⟩⟩
    rcases hp with hp | hp <;> simp [hp]
  | passChanged _ _ _ hd => simp_all
  | completed hi hp hd =>
    refine ⟨fun _ _ => ⟨?_, hp⟩, fun _ ht => by simp_all⟩
    rcases hi with hi | hi <;> simp [hi]
  | statusWritten ev v he hw _ hd =>
    obtain ⟨rest, hr⟩ := exists_pending_of_head? he
    exact ⟨fun _ ht => by simp_all, fun _ _ => .inr ⟨ev, rest, hr, .inr ⟨v, hw, by simp_all⟩⟩⟩
  | reset he _ hd =>
    obtain ⟨rest, hr⟩ := exists_pending_of_head? he
    exact ⟨fun _ ht => by simp_all, fun _ _ => .inr ⟨.reset, rest, hr, .inl rfl⟩⟩

/-! ### `ERR` and `CAUSE` (R27, R174) -/

theorem Cause.code_range (c : Cause) : 1 ≤ c.code.toNat ∧ c.code.toNat ≤ 4 := by cases c <;> decide

/-- What a transition that serves `e` does to `ERR` and `CAUSE`. -/
inductive FaultMove (s : State) (e : Option Event) (t : State) : Prop where
  /-- neither changes -/
  | kept : t.err = s.err → t.cause = s.cause → FaultMove s e t
  /-- a host access is reported while no fault is (R171) -/
  | recorded (a : Access) (c : Cause) : e = some (.host a) → s.err = false → t.err = true → t.cause = c.code →
      FaultMove s e t
  /-- the host acknowledges with bit 2 of `STATUS` (R176) -/
  | acknowledged (ev : Event) (v : Word) : e = some ev → ev.WritesRegister 1 v → v.getLsbD 2 = true →
      t.err = false → FaultMove s e t
  /-- reset (R191) -/
  | reset : e = some .reset → t.err = false → FaultMove s e t

/-- Raising keeps the first cause and records one where there is none (R171, R174). -/
theorem faultMove_raise {s u : State} {a : Access} (he : u.err = s.err) (hc : u.cause = s.cause) (c : Cause) :
    FaultMove s (some (.host a)) (u.raise c) := by
  cases hs : s.err with
  | true => exact .kept (by simp [hs]) (by simp [he, hs, hc])
  | false => exact .recorded a c rfl hs (by simp) (by simp [he, hs])

/-- What an engine step writes: `PHASE`, `POS`, `DONE` and the memories, and the draw count (R181). -/
theorem exec_busy_frame {i : Instr} {s t : State} (hb : s.phase ≠ .idle) (h : exec i s = .next t) :
    t = { s with
      phase := t.phase, pos := t.pos, done := t.done, pix := t.pix, lum := t.lum, draws := t.draws } := by
  obtain ⟨hp, -⟩ | ⟨-, -, rfl⟩ | ⟨-, -, rfl⟩ | ⟨-, -, d, ns, rfl⟩ := exec_next_cases h
  · exact absurd hp hb
  · obtain ⟨-, _, _, _, -, -, -, -, ht⟩ | ⟨-, ht⟩ := s.scanStep_cases (outputFunction i s)
    · rw [ht]
    · rw [ht]
  · obtain ⟨-, _, _, _, -, -, -, ht⟩ | ⟨-, ht⟩ := s.pass1Step_cases
    · rw [ht]
    · rw [ht]
  · obtain ⟨-, _, _, -, -, -, -, -, -, ht⟩ | ⟨-, ht⟩ := s.pass2Step_cases d ns
    · rw [ht]
    · rw [ht]

/-- A legal command records `DIM_RANGE` or nothing (R152, check 4). -/
theorem faultMove_of_exec_idle {i : Instr} {s t : State} (a : Access) (hi : s.phase = .idle)
    (h : exec i s.served = .next t) : FaultMove s (some (.host a)) t := by
  rw [exec_idle (s := s.served) hi, Host.Outcome.next.injEq] at h
  subst h
  obtain ⟨-, ht⟩ | ⟨he, -, ht⟩ | ⟨-, -, ht⟩ := s.served.issue_cases i.opcode i.threshold (firstPhase i)
  · rw [ht]; exact .kept rfl rfl
  · rw [ht]; exact .recorded a .dimRange rfl he rfl rfl
  · rw [ht]; exact .kept rfl rfl

theorem Transition.faultMove {s t : State} {e : Option Event} (h : Transition s e s.served t) : FaultMove s e t := by
  cases h with
  | operation i _ _ hb _ hx =>
    have hf := exec_busy_frame (s := s.served) hb hx
    have he : t.err = s.served.err := by rw [hf]
    have hc : t.cause = s.served.cause := by rw [hf]
    exact .kept he hc
  | rest => exact .kept rfl rfl
  | command ev v i _ he hw hi _ _ hx =>
    obtain ⟨a, rfl⟩ := hw.exists_access
    exact he ▸ faultMove_of_exec_idle a hi hx
  | dropped => exact .kept rfl rfl
  | faulted a c he => exact he ▸ faultMove_raise (by simp) (by simp) c
  | registerRead => exact .kept rfl rfl
  | statusWritten ev v he hw =>
    cases hv : v.getLsbD 2 with
    | true => exact .acknowledged ev v he hw hv (by simp)
    | false => exact .kept (by simp) (by simp)
  | widthWritten => exact .kept rfl rfl
  | heightWritten => exact .kept rfl rfl
  | pixelRead => exact .kept rfl rfl
  | pixelReadBusy off b he => exact he ▸ faultMove_raise (by simp) (by simp) _
  | pixelWritten => exact .kept rfl rfl
  | reset he => exact .reset he rfl

/-- Settles O46: of the moves of `ERR` and `CAUSE`, only an acknowledgement and reset touch a recorded fault, and only
a host access records one. -/
theorem firstCauseIsKept : Obligations.FirstCauseIsKept := by
  intro s t h
  cases (step_transition h).faultMove with
  | kept he hc => exact ⟨fun hs => .inl ⟨he.trans hs, hc⟩, fun hs ht => by simp_all⟩
  | recorded a c he hs _ hc =>
    exact ⟨fun hs' => by simp_all, fun _ _ => ⟨⟨a, exists_pending_of_head? he⟩, hc ▸ c.code_range⟩⟩
  | acknowledged ev v he hw hv ht =>
    obtain ⟨rest, hr⟩ := exists_pending_of_head? he
    exact ⟨fun _ => .inr ⟨ev, rest, hr, .inr ⟨v, hw, hv⟩⟩, fun _ ht' => by simp_all⟩
  | reset he ht =>
    obtain ⟨rest, hr⟩ := exists_pending_of_head? he
    exact ⟨fun _ => .inr ⟨.reset, rest, hr, .inl rfl⟩, fun _ ht' => by simp_all⟩

end Sys2Proof.Machine
end

section
/-! SUPPORT. The state after reset, and the phases in which an operation has no step. -/

namespace Sys2Proof.Machine

/-- In `PASS1` and `PASS2` a pointwise operation has no step (R41(c), log entry 7). -/
theorem pointwise_of_pass {s : State} (h : s.phase = .pass1 ∨ s.phase = .pass2) (opc : BitVec 4) (t : BitVec 9)
    (out : Byte → Byte → Byte → Byte) : pointwise opc t out s = .fault .noStepInPhase := by
  rcases h with h | h
  · simp [pointwise, h]
  · simp [pointwise, h]

/-- In `SCAN` a diffusion operation has no step (R41(c), log entry 7). -/
theorem diffusion_of_scan {s : State} (h : s.phase = .scan) (opc : BitVec 4) (d : Int) (ns : List (Nat × Int)) :
    diffusion opc d ns s = .fault .noStepInPhase := by
  simp [diffusion, h]

/-- Settles O49: every operation has one of the two shapes. -/
theorem noStepInAPhaseOfTheOtherKind : Obligations.NoStepInAPhaseOfTheOtherKind := fun _ =>
  ⟨fun h => ⟨pointwise_of_pass h _ _ _, fun _ => pointwise_of_pass h _ _ _, fun _ => pointwise_of_pass h _ _ _⟩,
    fun h => ⟨diffusion_of_scan h _ _ _, diffusion_of_scan h _ _ _⟩⟩

/-- Settles O51: each field by evaluation; both memories list no address. -/
theorem resetState : Obligations.ResetState :=
  ⟨rfl, rfl, rfl, rfl, rfl, rfl, rfl, rfl, rfl, by decide, by decide, rfl, rfl, rfl, rfl, rfl,
    Memory.read_nil, Memory.read_nil⟩

end Sys2Proof.Machine
end

section
/-! SUPPORT. What an operation may write of `PIX` (20_memory.md R52, R56), which operation a step runs (R63), and how a
byte-addressed bus presents the registers (R55, R59). -/

namespace Sys2Proof.Machine

/-! ### What an operation writes of `PIX` -/

/-- A transition of an operation leaves `PIX` as it is or sets one pixel of the image (R56). -/
theorem exec_pix {i : Instr} {s t : State} (h : exec i s = .next t) :
    t.pix = s.pix ∨ s.pos < s.npix ∧ ∃ v, s.pix.PixelSet s.pos v t.pix := by
  obtain ⟨-, rfl⟩ | ⟨-, -, rfl⟩ | ⟨-, -, rfl⟩ | ⟨-, -, d, ns, rfl⟩ := exec_next_cases h
  · obtain ⟨-, ht⟩ | ⟨-, -, ht⟩ | ⟨-, -, ht⟩ := s.issue_cases i.opcode i.threshold (firstPhase i)
    · exact .inl (by rw [ht])
    · exact .inl (by rw [ht])
    · exact .inl (by rw [ht])
  · obtain ⟨hl, _, _, _, -, -, -, hset, -⟩ | ⟨-, ht⟩ := s.scanStep_cases (outputFunction i s)
    · exact .inr ⟨hl, _, hset⟩
    · exact .inl (by rw [ht])
  · obtain ⟨-, _, _, _, -, -, -, ht⟩ | ⟨-, ht⟩ := s.pass1Step_cases
    · exact .inl (by rw [ht])
    · exact .inl (by rw [ht])
  · obtain ⟨hl, _, _, -, hset, -, -, hpix, -⟩ | ⟨-, ht⟩ := s.pass2Step_cases d ns
    · exact .inr ⟨hl, _, hpix ▸ hset⟩
    · exact .inl (by rw [ht])

/-- Settles O48: the one pixel an operation may set lies in the image, and its alpha byte is not among the bytes set. -/
theorem alphaAndBytesBeyondTheImageAreUntouched : Obligations.AlphaAndBytesBeyondTheImageAreUntouched := by
  intro s t i h a ha
  obtain hpix | ⟨hl, v, hset⟩ := exec_pix h
  · rw [hpix]
  · exact hset.read_other (by omega)

/-! ### The operation a step runs -/

/-- A step serves the oldest schedule entry (R9). -/
theorem step_of_pending {s : State} {e : Event} {rest : List Event} (h : s.pending = e :: rest) :
    step s = serve e { s with pending := rest } := by
  rw [step, h]

/-- A legal command word written to an idle block without `ERR` has the transition of its operation (R152). -/
theorem writeCmd_of_decode {s : State} {v : Word} {i : Instr} (hi : s.phase = .idle) (he : s.err = false)
    (hd : decode v = .instr i) : writeCmd v s = exec i s := by
  simp [writeCmd, State.busy, hi, he, hd]

/-- The engine's turn on a busy block is the step of the operation in `CMD` (R9, R63). -/
theorem engineTurn_of_busy {s : State} {i : Instr} (hb : s.phase ≠ .idle) (hd : decode s.cmdWord = .instr i) :
    engineTurn s = exec i s := by
  simp only [engineTurn, if_pos (State.busy_eq_true.2 hb), hd]

/-- The step that serves the write of a legal command word runs its operation (R63). -/
theorem step_of_command_write {s : State} {v : Word} {i : Instr} {rest : List Event}
    (hp : s.pending = .host (.regWrite 0 v) :: rest) (hi : s.phase = .idle) (he : s.err = false)
    (hd : decode v = .instr i) : step s = exec i { s with pending := rest } :=
  (step_of_pending hp).trans (writeCmd_of_decode hi he hd)

/-- Settles O14: by the write to `CMD`, and by the engine's turn with nothing scheduled or scheduled itself. -/
theorem stepRunsTheDecodedCommand : Obligations.StepRunsTheDecodedCommand :=
  ⟨fun _ _ _ _ hp hi he hd => step_of_command_write hp hi he hd, fun _ _ hp hb hd => step_of_busy hp hb hd,
    fun _ _ _ hp hb hd => (step_of_pending hp).trans (engineTurn_of_busy hb hd)⟩

/-- A command word is one 32-bit datum of the opcode table (R70). -/
theorem tableWord_toNat (v : Word) : tableWord 32 v.toNat = v := by
  rw [tableWord, Nat.mod_eq_of_lt v.isLt, BitVec.ofNat_toNat, BitVec.setWidth_eq]

/-- Settles O15: the offered write is the oldest schedule entry of an idle block without `ERR`, and removing it restores
the schedule. -/
theorem offeredWordIsRunNext : Obligations.OfferedWordIsRunNext := by
  intro s i
  rw [State.withFetchWord, tableWord_toNat]
  exact step_of_command_write (State.offerCommand_pending s (encode i)) rfl rfl (decode_encode i)

/-! ### Registers on a byte-addressed bus (R55, R59) -/

theorem busRegister_of_aligned {off size : Nat} (h : size = 4 ∧ off % 4 = 0) : busRegister off size = some (off / 4) :=
  if_pos h

theorem busRegister_of_not_aligned {off size : Nat} (h : ¬(size = 4 ∧ off % 4 = 0)) : busRegister off size = none :=
  if_neg h

/-- Settles O42: by whether the access is an aligned whole register. -/
theorem busAccessNamesARegister : Obligations.BusAccessNamesARegister := by
  intro s off size v
  refine ⟨fun hsize hoff => ?_, fun h => ?_⟩
  · have hreg := busRegister_of_aligned ⟨hsize, hoff⟩
    simp only [hostAccess, busRead, busWrite, hreg, and_self]
  · have hreg := busRegister_of_not_aligned h
    simp only [hostAccess, busRead, busWrite, hreg, and_self]

end Sys2Proof.Machine
end

section
/-! SUPPORT. Which words are commands and of which operation, said once by the fields of the word (30_encoding.md R70,
R71, R74, R75), and what writing an illegal one does. -/

namespace Sys2Proof

open Machine

/-! ### The words that decode to an operation -/

theorem withoutThreshold_eq_instr {i j : Instr} {t : BitVec 9} (h : withoutThreshold j t = .instr i) :
    t = 0 ∧ i = j := by
  unfold withoutThreshold at h
  split at h
  · next ht => exact ⟨ht, (Decoded.instr.inj h).symm⟩
  · simp at h

theorem Fields.eq_iff {f g : Fields} :
    f = g ↔ (f.rsv1 = g.rsv1 ∧ f.rsv0 = g.rsv0 ∧ f.opc = g.opc) ∧ f.t = g.t := by
  cases f; cases g; simp only [Fields.mk.injEq]; tauto

theorem Fields.eq_instr_fields {f : Fields} {i : Instr} (hr1 : f.rsv1 = 0) (hr0 : f.rsv0 = 0)
    (ho : f.opc.toNat = i.opcode.toNat) (ht : f.t = i.threshold) : f = i.fields :=
  Fields.eq_iff.2 ⟨⟨hr1, hr0, BitVec.eq_of_toNat_eq ho⟩, ht⟩

/-- A word that decodes to an operation has that operation's fields. -/
theorem splitWord_of_decode {w : Word} {i : Instr} (h : decode w = .instr i) : splitWord w = i.fields := by
  unfold decode at h
  split at h
  · simp at h
  · next hr =>
    obtain ⟨hr1, hr0⟩ : (splitWord w).rsv1 = 0 ∧ (splitWord w).rsv0 = 0 := by simpa using hr
    split at h
    · next ho => obtain ⟨ht, rfl⟩ := withoutThreshold_eq_instr h; exact Fields.eq_instr_fields hr1 hr0 ho ht
    · next ho => cases h; exact Fields.eq_instr_fields hr1 hr0 ho rfl
    · next ho => cases h; exact Fields.eq_instr_fields hr1 hr0 ho rfl
    · next ho => obtain ⟨ht, rfl⟩ := withoutThreshold_eq_instr h; exact Fields.eq_instr_fields hr1 hr0 ho ht
    · next ho => obtain ⟨ht, rfl⟩ := withoutThreshold_eq_instr h; exact Fields.eq_instr_fields hr1 hr0 ho ht
    · simp at h

/-- `encode` undoes `decode` (R75). -/
theorem encode_of_decode {w : Word} {i : Instr} (h : decode w = .instr i) : encode i = w := by
  rw [encode, ← splitWord_of_decode h, joinFields_splitWord]

/-- Settles O1: decoding undoes encoding, and a word is the join of its fields, which are the operation's. -/
theorem decodeAndEncodeAreInverse : Obligations.DecodeAndEncodeAreInverse :=
  ⟨decode_encode, fun _ _ => encode_of_decode⟩

theorem decode_eq_instr_iff {w : Word} {i : Instr} : decode w = .instr i ↔ splitWord w = i.fields :=
  ⟨splitWord_of_decode, fun h => by rw [← joinFields_splitWord w, h]; exact decode_encode i⟩

/-- Settles O4: each word is the encoding of its operation. -/
theorem sampleWordsDecode : Obligations.SampleWordsDecode :=
  ⟨decode_encode .gray, decode_encode (.thresh 76), decode_encode (.thresh 511), decode_encode (.bayer 40),
    decode_encode .fsd, decode_encode .atk⟩

/-- A word is illegal exactly when it is no operation's (R75). -/
theorem decode_illegal_iff {w : Word} : (∃ why, decode w = .illegal why) ↔ ∀ i, decode w ≠ .instr i := by
  cases decode w with
  | instr i => simp
  | illegal why => simp

/-! ### Masks and matches (R75) -/

theorem splitWord_inj {w v : Word} : splitWord w = splitWord v ↔ w = v :=
  ⟨fun h => by rw [← joinFields_splitWord w, h, joinFields_splitWord], congrArg splitWord⟩

theorem splitWord_and (w v : Word) : splitWord (w &&& v) =
    ⟨(splitWord w).rsv1 &&& (splitWord v).rsv1, (splitWord w).t &&& (splitWord v).t,
      (splitWord w).rsv0 &&& (splitWord v).rsv0, (splitWord w).opc &&& (splitWord v).opc⟩ := by
  simp only [splitWord, BitVec.extractLsb'_and]

/-- The mask of `GRAY`, `FSD` and `ATK` keeps the whole word. -/
theorem decode_eq_instr_iff_fullMask {w : Word} {i : Instr} :
    decode w = .instr i ↔ w &&& 0xFFFFFFFF#32 = encode i := by
  have hw : w &&& 0xFFFFFFFF#32 = w := BitVec.and_allOnes
  rw [hw, decode_eq_instr_iff, ← splitWord_inj (v := encode i), encode, splitWord_joinFields]

/-- The mask of `THRESH` and `BAYER` drops the threshold field. -/
theorem thresholdMask_eq_iff {w : Word} {o : BitVec 4} :
    w &&& 0xFFFE00FF#32 = joinFields ⟨0, 0, 0, o⟩ ↔
      (splitWord w).rsv1 = 0 ∧ (splitWord w).rsv0 = 0 ∧ (splitWord w).opc = o := by
  have hm : splitWord 0xFFFE00FF#32 = ⟨BitVec.allOnes 15, 0, BitVec.allOnes 4, BitVec.allOnes 4⟩ := by decide
  rw [← splitWord_inj, splitWord_and, hm, splitWord_joinFields, Fields.mk.injEq]
  simp only [BitVec.ofNat_eq_ofNat, BitVec.and_allOnes, BitVec.and_zero, true_and]

/-- An operation is selected by the match word of its opcode and by its threshold. -/
theorem decode_eq_instr_iff_thresholdMask {w m : Word} {i : Instr} (hm : joinFields ⟨0, 0, 0, i.opcode⟩ = m) :
    decode w = .instr i ↔ w &&& 0xFFFE00FF#32 = m ∧ w.extractLsb' 8 9 = i.threshold := by
  rw [← hm, thresholdMask_eq_iff, decode_eq_instr_iff, Fields.eq_iff]; rfl

/-- Settles O2: the two masks, and that illegal is no row. -/
theorem decodeSelectsByMaskAndMatch : Obligations.DecodeSelectsByMaskAndMatch := by
  intro w
  have gray : decode w = .instr .gray ↔ _ := decode_eq_instr_iff_fullMask
  have thresh (t : BitVec 9) : decode w = .instr (.thresh t) ↔ w &&& 0xFFFE00FF#32 = 2#32 ∧ _ :=
    decode_eq_instr_iff_thresholdMask (show joinFields ⟨0, 0, 0, 2⟩ = 2 by decide)
  have bayer (t : BitVec 9) : decode w = .instr (.bayer t) ↔ w &&& 0xFFFE00FF#32 = 3#32 ∧ _ :=
    decode_eq_instr_iff_thresholdMask (show joinFields ⟨0, 0, 0, 3⟩ = 3 by decide)
  have fsd : decode w = .instr .fsd ↔ _ := decode_eq_instr_iff_fullMask
  have atk : decode w = .instr .atk ↔ _ := decode_eq_instr_iff_fullMask
  refine ⟨gray, thresh, bayer, fsd, atk, decode_illegal_iff.trans ⟨fun h => ?_, fun h i => ?_⟩⟩
  · exact ⟨mt gray.2 (h _), fun hm => h _ ((thresh _).2 ⟨hm, rfl⟩), fun hm => h _ ((bayer _).2 ⟨hm, rfl⟩),
      mt fsd.2 (h _), mt atk.2 (h _)⟩
  · obtain ⟨hgray, hthresh, hbayer, hfsd, hatk⟩ := h
    cases i with
    | gray => exact mt gray.1 hgray
    | thresh t => exact fun hd => hthresh ((thresh t).1 hd).1
    | bayer t => exact fun hd => hbayer ((bayer t).1 hd).1
    | fsd => exact mt fsd.1 hfsd
    | atk => exact mt atk.1 hatk

/-! ### Illegal words (R74) -/

theorem Instr.fields_wellFormed (i : Instr) : i.fields.wellFormed = true := by
  cases i with
  | gray => exact Laws.FieldsLegal.gray
  | thresh t => exact Laws.FieldsLegal.thresh t
  | bayer t => exact Laws.FieldsLegal.bayer t
  | fsd => exact Laws.FieldsLegal.fsd
  | atk => exact Laws.FieldsLegal.atk

/-- Well-formed fields, as numbers and conditions. -/
theorem Fields.wellFormed_iff {f : Fields} : f.wellFormed = true ↔
    f.rsv1 = 0 ∧ f.rsv0 = 0 ∧ 1 ≤ f.opc.toNat ∧ f.opc.toNat ≤ 5 ∧
      (f.opc.toNat = 2 ∨ f.opc.toNat = 3 ∨ f.t = 0) := by
  have h2 : f.opc = 2 ↔ f.opc.toNat = 2 := BitVec.toNat_inj.symm
  have h3 : f.opc = 3 ↔ f.opc.toNat = 3 := BitVec.toNat_inj.symm
  simp only [Fields.wellFormed, Fields.reservedZero, Fields.opcodeKnown, Fields.thresholdFits, Bool.and_eq_true,
    Bool.or_eq_true, beq_iff_eq, decide_eq_true_eq, h2, h3, and_assoc, or_assoc]

/-- Well-formed fields are those of an operation (R71, R74). -/
theorem Fields.exists_instr_of_wellFormed {f : Fields} (h : f.wellFormed = true) : ∃ i : Instr, f = i.fields := by
  obtain ⟨hr1, hr0, hlo, hhi, ht⟩ := Fields.wellFormed_iff.1 h
  have hzero (h2 : f.opc.toNat ≠ 2) (h3 : f.opc.toNat ≠ 3) : f.t = 0 := (ht.resolve_left h2).resolve_left h3
  have ho : f.opc.toNat = 1 ∨ f.opc.toNat = 2 ∨ f.opc.toNat = 3 ∨ f.opc.toNat = 4 ∨ f.opc.toNat = 5 := by omega
  rcases ho with ho | ho | ho | ho | ho
  · exact ⟨.gray, Fields.eq_instr_fields hr1 hr0 ho (hzero (by omega) (by omega))⟩
  · exact ⟨.thresh f.t, Fields.eq_instr_fields hr1 hr0 ho rfl⟩
  · exact ⟨.bayer f.t, Fields.eq_instr_fields hr1 hr0 ho rfl⟩
  · exact ⟨.fsd, Fields.eq_instr_fields hr1 hr0 ho (hzero (by omega) (by omega))⟩
  · exact ⟨.atk, Fields.eq_instr_fields hr1 hr0 ho (hzero (by omega) (by omega))⟩

/-- A word is illegal exactly when its fields are ill formed (R74). -/
theorem decode_illegal_iff_not_wellFormed {w : Word} :
    (∃ why, decode w = .illegal why) ↔ ¬(splitWord w).wellFormed = true := by
  rw [decode_illegal_iff, ← not_exists]
  refine not_congr ⟨fun ⟨i, hi⟩ => splitWord_of_decode hi ▸ i.fields_wellFormed, fun h => ?_⟩
  obtain ⟨i, hi⟩ := Fields.exists_instr_of_wellFormed h
  exact ⟨i, decode_eq_instr_iff.2 hi⟩

/-- Writing an illegal word to an idle block without `ERR` is reported (R74, R152). -/
theorem writeCmd_of_illegal {s : State} {v : Word} {why : Illegal} (hi : s.phase = .idle) (he : s.err = false)
    (hd : decode v = .illegal why) : writeCmd v s = .next { s with err := true, cause := 1 } := by
  simp [writeCmd, State.busy, hi, he, hd, State.raise, Cause.code]

/-- Settles O3: the illegal words are those of ill-formed fields, and the step that serves the write reports it. -/
theorem illegalCommandRaisesIllegalCmd : Obligations.IllegalCommandRaisesIllegalCmd := by
  refine ⟨fun w => ?_, fun s v rest why hp hi he hd => (step_of_pending hp).trans (writeCmd_of_illegal hi he hd)⟩
  rw [decode_illegal_iff_not_wellFormed, Fields.wellFormed_iff]
  simp only [splitWord]
  grind

end Sys2Proof
end

section
/-! SUPPORT. What the statements of the host script expand to (30_encoding.md R77, R78), and the five command words as
numbers (R75). -/

namespace Sys2Proof.Machine

theorem loadEvents_length (off : Nat) (bytes : List Byte) : (loadEvents off bytes).length = bytes.length := by
  induction bytes generalizing off with
  | nil => rfl
  | cons b bs ih => simp only [loadEvents, List.length_cons, ih]

/-- The `k`-th entry of a `LOAD` writes the `k`-th byte. -/
theorem loadEvents_getElem? (off : Nat) (bytes : List Byte) (k : Nat) :
    (loadEvents off bytes)[k]? = bytes[k]?.map fun b => .host (.pixWrite (off + k) b) := by
  induction bytes generalizing off k with
  | nil => rfl
  | cons b bs ih =>
    cases k with
    | zero => rfl
    | succ k => simp only [loadEvents, List.getElem?_cons_succ, ih, Nat.add_right_comm, Nat.add_assoc]

theorem dumpEvents_length (off n : Nat) : (dumpEvents off n).length = n := by
  induction n generalizing off with
  | zero => rfl
  | succ n ih => simp only [dumpEvents, List.length_cons, ih]

theorem dumpEvents_getElem? {off n k : Nat} (h : k < n) :
    (dumpEvents off n)[k]? = some (.host (.pixRead (off + k))) := by
  induction n generalizing off k with
  | zero => omega
  | succ n ih =>
    cases k with
    | zero => rfl
    | succ k => rw [dumpEvents, List.getElem?_cons_succ, ih (by omega), Nat.add_right_comm, Nat.add_assoc]

/-- `WAIT` is one read of `STATUS` and, for each gap, the gap and another read. -/
theorem waitEvents_eq (gaps : List Nat) : waitEvents gaps =
    .host (.regRead 1) :: gaps.flatMap fun k => List.replicate k .engine ++ [.host (.regRead 1)] := by
  induction gaps with
  | nil => rfl
  | cons k gaps ih => simp only [waitEvents, ih, List.flatMap_cons, List.append_assoc, List.singleton_append]

/-- The number that an operation's command word is (R70, R71). -/
theorem encode_eq_ofNat (i : Instr) : encode i = BitVec.ofNat 32 (i.opcode.toNat + 256 * i.threshold.toNat) := by
  have ho := i.opcode.isLt
  have ht := i.threshold.isLt
  apply BitVec.eq_of_toNat_eq
  rw [encode, joinFields_toNat, BitVec.toNat_ofNat]
  simp only [Instr.fields, BitVec.ofNat_eq_ofNat, BitVec.toNat_zero]
  omega

theorem command_events (i : Instr) : (Stmt.command i).events =
    [.host (.regWrite 0 (BitVec.ofNat 32 (i.opcode.toNat + 256 * i.threshold.toNat)))] :=
  congrArg (fun v => [Event.host (.regWrite 0 v)]) (encode_eq_ofNat i)

/-- Settles O44: `LOAD`, `DUMP` and `WAIT` by induction on their lists, the commands by their words as numbers, the rest
by expanding both sides. -/
theorem scriptExpansions : Obligations.ScriptExpansions := by
  refine ⟨fun _ _ => rfl, fun off bytes => ⟨loadEvents_length off bytes, fun k b hb => ?_⟩,
    fun _ _ _ _ _ => ⟨rfl, rfl⟩, fun off n => ⟨dumpEvents_length off n, fun _ => dumpEvents_getElem?⟩,
    waitEvents_eq, fun _ _ => rfl, fun t => ⟨command_events (.thresh t), command_events (.bayer t)⟩,
    ⟨command_events .gray, command_events .fsd, command_events .atk⟩, rfl, rfl⟩
  exact (loadEvents_getElem? off bytes k).trans (by rw [hb]; rfl)

end Sys2Proof.Machine
end

section
/-! SUPPORT. The luminance (40_luminance.md): its range, its order, and the three forms of the comparisons with it. -/

namespace Sys2Proof.Machine

/-! ### The rational luminance `L = NUM / 1000` against natural numbers (R95) -/

theorem luminance_lt_natCast_iff (n t : Nat) : (n : ℚ) / 1000 < (t : ℚ) ↔ n < 1000 * t := by
  rw [div_lt_iff₀' (by norm_num)]; exact_mod_cast Iff.rfl

/-- The floor of the mean of `L` and a natural number is the quotient of R104. -/
theorem floor_luminance_mean (n m : Nat) :
    ⌊((n : ℚ) / 1000 + (m : ℚ)) / 2⌋ = (((n + 1000 * m) / 2000 : Nat) : Int) := by
  have hq : ((n : ℚ) / 1000 + (m : ℚ)) / 2 = ((n + 1000 * m : Nat) : ℚ) / (2000 : Nat) := by push_cast; ring
  rw [hq, Rat.floor_natCast_div_natCast, Int.natCast_ediv]

theorem lumNum_lt_iff_lum8_lt (r g b : Byte) (t : Nat) : lumNum r g b < 1000 * t ↔ (lum8 r g b).toNat < t := by
  rw [lum8_toNat, Nat.div_lt_iff_lt_mul (by decide), Nat.mul_comm]

theorem threshOut_eq_luminance (t : BitVec 9) (r g b : Byte) :
    threshOut t r g b = if (lumNum r g b : ℚ) / 1000 < ((t.toNat : Nat) : ℚ) then 0 else 255 :=
  if_congr (luminance_lt_natCast_iff _ _).symm rfl rfl

theorem bayerOut_eq_luminance (t : BitVec 9) (w l : Nat) (r g b : Byte) :
    bayerOut t w l r g b =
      if (t.toNat : Int) ≤ ⌊((lumNum r g b : ℚ) / 1000 + ((bias w l : Nat) : ℚ)) / 2⌋ then 255 else 0 := by
  rw [floor_luminance_mean]; exact if_congr Nat.cast_le.symm rfl rfl

/-- The pixel `(3, 0, 0)` has `L = 0.897` and `LUM8 = 0`: the threshold `1/2` separates them. -/
theorem half_separates_luminance_from_lum8 :
    ¬((lumNum 3 0 0 : ℚ) / 1000 < 1 / 2 ↔ (((lum8 3 0 0).toNat : Nat) : ℚ) < 1 / 2) := by
  have hnum : lumNum 3 0 0 = 897 := by decide
  have hlum : (lum8 3 0 0).toNat = 0 := by decide
  rw [hnum, hlum]; norm_num

/-- Settles O6: each form by its own lemma, the last clause by the form of `B4` with the 8-bit luminance. -/
theorem comparisonFormsAgree : Obligations.ComparisonFormsAgree :=
  ⟨fun t w l r g b => ⟨threshOut_eq_luminance t r g b, bayerOut_eq_luminance t w l r g b⟩,
    ⟨3, 0, 0, 1 / 2, half_separates_luminance_from_lum8⟩,
    fun r g b t m => ⟨luminance_lt_natCast_iff _ t, lumNum_lt_iff_lum8_lt r g b t, floor_luminance_mean _ m,
      biased_eq m r g b⟩⟩

/-! ### Order (R98) -/

theorem lumNum_mono {r g b r' g' b' : Byte} (hr : r ≤ r') (hg : g ≤ g') (hb : b ≤ b') :
    lumNum r g b ≤ lumNum r' g' b' :=
  Nat.add_le_add (Nat.add_le_add (Nat.mul_le_mul_left _ hr) (Nat.mul_le_mul_left _ hg)) (Nat.mul_le_mul_left _ hb)

theorem lum8_le_of_lumNum_le {r g b r' g' b' : Byte} (h : lumNum r g b ≤ lumNum r' g' b') :
    lum8 r g b ≤ lum8 r' g' b' := by
  rw [BitVec.le_def, lum8_toNat, lum8_toNat]; exact Nat.div_le_div_right h

/-- `NUM` larger by a weight, none of which exceeds 1000, makes `LUM8` larger by at most 1. -/
theorem lum8_le_succ_of_lumNum_eq_add {r g b r' g' b' : Byte} {k : Nat} (hk : k ≤ 1000)
    (h : lumNum r' g' b' = lumNum r g b + k) : (lum8 r' g' b').toNat ≤ (lum8 r g b).toNat + 1 := by
  rw [lum8_toNat, lum8_toNat]; omega

theorem lumNum_succ_red {r c : Byte} (g b : Byte) (h : c.toNat = r.toNat + 1) :
    lumNum c g b = lumNum r g b + 299 := by unfold lumNum; omega

theorem lumNum_succ_green {g c : Byte} (r b : Byte) (h : c.toNat = g.toNat + 1) :
    lumNum r c b = lumNum r g b + 587 := by unfold lumNum; omega

theorem lumNum_succ_blue {b c : Byte} (r g : Byte) (h : c.toNat = b.toNat + 1) :
    lumNum r g c = lumNum r g b + 114 := by unfold lumNum; omega

/-- Settles O8: the order of `NUM` carries over to `LUM8`, and so does each increment, up to 1. -/
theorem luminanceIsMonotone : Obligations.LuminanceIsMonotone := by
  refine ⟨fun r g b r' g' b' hr hg hb => ?_, fun r g b c => ⟨fun h => ?_, fun h => ?_, fun h => ?_⟩⟩
  · exact ⟨lumNum_mono hr hg hb, lum8_le_of_lumNum_le (lumNum_mono hr hg hb)⟩
  · exact ⟨lumNum_succ_red g b h, lum8_le_succ_of_lumNum_eq_add (by decide) (lumNum_succ_red g b h)⟩
  · exact ⟨lumNum_succ_green r b h, lum8_le_succ_of_lumNum_eq_add (by decide) (lumNum_succ_green r b h)⟩
  · exact ⟨lumNum_succ_blue r g h, lum8_le_succ_of_lumNum_eq_add (by decide) (lumNum_succ_blue r g h)⟩

/-! ### Range (R92) -/

/-- The weights 299, 587 and 114 give the largest products of R92. -/
theorem mul_byte_le (k : Nat) (v : Byte) : k * v.toNat ≤ k * 255 := Nat.mul_le_mul_left k (Nat.le_of_lt_succ v.isLt)

/-- `NUM` reaches 255000 only where every channel is at its end. -/
theorem lumNum_eq_max_iff (r g b : Byte) : lumNum r g b = 255000 ↔ r = 255 ∧ g = 255 ∧ b = 255 := by
  have hr := r.isLt; have hg := g.isLt; have hb := b.isLt
  simp only [← BitVec.toNat_inj, lumNum, BitVec.ofNat_eq_ofNat, BitVec.toNat_ofNat]
  omega

theorem lumNum_eq_zero_iff (r g b : Byte) : lumNum r g b = 0 ↔ r = 0 ∧ g = 0 ∧ b = 0 := by
  simp only [← BitVec.toNat_inj, lumNum, BitVec.ofNat_eq_ofNat, BitVec.toNat_ofNat]
  omega

theorem luminance_le (r g b : Byte) : (lumNum r g b : ℚ) / 1000 ≤ 255 := by
  have h : (lumNum r g b : ℚ) ≤ 255000 := by exact_mod_cast lumNum_le r g b
  linarith

/-- Settles O5, the ends of the range from the channels' numbers and the rest from the bound of `NUM`. -/
theorem luminanceNumeratorRange : Obligations.LuminanceNumeratorRange :=
  ⟨rfl, fun r g b => ⟨lumNum_le r g b, (lumNum_le r g b).trans_lt (by decide), by positivity, luminance_le r g b,
    lumNum_eq_max_iff r g b, lumNum_eq_zero_iff r g b, mul_byte_le 299 r, mul_byte_le 587 g, mul_byte_le 114 b⟩⟩

/-- Settles O7: the weights sum to 1000, so the floor returns the grey level. -/
theorem greyIsAFixedPoint : Obligations.GreyIsAFixedPoint := fun v => ⟨lumNum_grey v, lum8_grey v⟩

end Sys2Proof.Machine
end

section
/-! SUPPORT. The threshold matrix by column and row (10_state.md R33, 41_pointwise.md R103), the range of the biased
value (R105), and the output functions of the pointwise operations: where they saturate (R108) and that each keeps its
own result (R107, R110). -/

namespace Sys2Proof.Machine

/-! ### The bias of a position (R33, R103) -/

theorem bias_eq_matrixAt (w l : Nat) : bias w l = matrixAt ((l % w) % 4) ((l / w) % 4) :=
  matrixEntry_eq (Nat.mod_lt _ (by decide)) (Nat.mod_lt _ (by decide))

/-- The bias of the position in column `x` of row `y`. -/
theorem bias_of_column_row {w x : Nat} (h : x < w) (y : Nat) : bias w (y * w + x) = matrixEntry (x % 4) (y % 4) := by
  have hcol : column w (y * w + x) = x := Nat.mul_add_mod_of_lt h
  have hrow : row w (y * w + x) = y := by
    rw [row, Nat.mul_comm, Nat.mul_add_div (by omega), Nat.div_eq_of_lt h, Nat.add_zero]
  rw [bias, hcol, hrow]

theorem exists_matrixEntry_eq {k : Nat} (h1 : 1 ≤ k) (h16 : k ≤ 16) :
    ∃ i j, i < 4 ∧ j < 4 ∧ matrixEntry i j = 15 * k := by
  have h : ∀ n : Fin 16, ∃ i j : Fin 4, matrixEntry i j = 15 * (n.val + 1) := by decide
  obtain ⟨i, j, hij⟩ := h ⟨k - 1, by omega⟩
  exact ⟨i, j, i.isLt, j.isLt, by rw [hij, Nat.sub_add_cancel h1]⟩

theorem matrixEntry_injective {i j i' j' : Nat} (hi : i < 4) (hj : j < 4) (hi' : i' < 4) (hj' : j' < 4)
    (h : matrixEntry i' j' = matrixEntry i j) : i' = i ∧ j' = j := by
  have hinj : ∀ a b a' b' : Fin 4, matrixEntry a' b' = matrixEntry a b → a'.val = a.val ∧ b'.val = b.val := by decide
  exact hinj ⟨i, hi⟩ ⟨j, hj⟩ ⟨i', hi'⟩ ⟨j', hj'⟩ h

/-- Settles O9: both periods because only the low two bits of column and row select the entry. -/
theorem biasIsTheMatrixEntry : Obligations.BiasIsTheMatrixEntry := by
  refine ⟨bias_eq_matrixAt, fun w x y h => ?_, fun w x y h => ?_, fun k h1 h16 => ?_⟩
  · rw [bias_of_column_row (by omega), bias_of_column_row h, Nat.add_mod_right]
  · rw [bias_of_column_row h, bias_of_column_row h, Nat.add_mod_right]
  · obtain ⟨i, j, hi, hj, hij⟩ := exists_matrixEntry_eq h1 h16
    exact ⟨i, j, hi, hj, hij, fun i' j' hi' hj' h => matrixEntry_injective hi hj hi' hj' (h.trans hij.symm)⟩

/-! ### The biased value `B4` (R104, R105) -/

theorem biased_range (w l : Nat) (r g b : Byte) :
    7 ≤ biased (bias w l) r g b ∧ biased (bias w l) r g b ≤ 247 := by
  obtain ⟨hlow, hhigh⟩ := bias_range w l
  have hlum := (lum8 r g b).isLt
  rw [biased_eq]; omega

theorem biased_grey (m : Nat) (v : Byte) : biased m v v v = (v.toNat + m) / 2 := by rw [biased_eq, lum8_grey]

theorem lumNum_black_le_le_white (r g b : Byte) :
    lumNum 0 0 0 ≤ lumNum r g b ∧ lumNum r g b ≤ lumNum 255 255 255 := by
  rw [lumNum_grey, lumNum_grey]
  exact ⟨Nat.zero_le _, lumNum_le r g b⟩

theorem biased_le_of_lumNum_le {r g b r' g' b' : Byte} (m : Nat) (h : lumNum r g b ≤ lumNum r' g' b') :
    biased m r g b ≤ biased m r' g' b' := Nat.div_le_div_right (Nat.add_le_add_right h _)

theorem matrixEntry_halves : ∀ i k : Fin 4,
    matrixEntry i k / 2 ∈ [7, 15, 22, 30, 37, 45, 52, 60, 67, 75, 82, 90, 97, 105, 112, 120] ∧
    (255 + matrixEntry i k) / 2 ∈
      [135, 142, 150, 157, 165, 172, 180, 187, 195, 202, 210, 217, 225, 232, 240, 247] := by decide

/-- Settles O10: on a grey pixel `B4` is half the sum of the grey level and one of the sixteen entries. -/
theorem biasedValueRange : Obligations.BiasedValueRange := by
  intro w l r g b
  obtain ⟨hlow, hhigh⟩ := bias_range w l
  obtain ⟨hmin, hmax⟩ := biased_range w l r g b
  have hblack : biased (bias w l) 0 0 0 = bias w l / 2 :=
    (biased_grey _ _).trans (congrArg (· / 2) (Nat.zero_add _))
  have hwhite : biased (bias w l) 255 255 255 = (255 + bias w l) / 2 := biased_grey _ _
  obtain ⟨hlist0, hlist255⟩ := matrixEntry_halves
    ⟨column w l % 4, Nat.mod_lt _ (by decide)⟩ ⟨row w l % 4, Nat.mod_lt _ (by decide)⟩
  exact ⟨hlow, hhigh, hmin, hmax, hblack, hblack ▸ hlist0, hwhite, hwhite ▸ hlist255⟩

/-! ### Saturation (R108) -/

theorem threshOut_of_ge {t : BitVec 9} (h : 256 ≤ t.toNat) (r g b : Byte) : threshOut t r g b = 0 :=
  if_pos (by have := lumNum_le r g b; omega)

theorem bayerOut_of_ge {t : BitVec 9} (h : 248 ≤ t.toNat) (w l : Nat) (r g b : Byte) : bayerOut t w l r g b = 0 :=
  if_neg (by have := biased_range w l r g b; omega)

theorem bayerOut_of_le {t : BitVec 9} (h : t.toNat ≤ 7) (w l : Nat) (r g b : Byte) : bayerOut t w l r g b = 255 :=
  if_pos (h.trans (biased_range w l r g b).1)

/-! ### Each output function on its own result (R107, R110) -/

/-- The comparison that gave black holds of black, and the one that gave white holds of white. -/
theorem threshOut_threshOut (t : BitVec 9) (r g b : Byte) :
    threshOut t (threshOut t r g b) (threshOut t r g b) (threshOut t r g b) = threshOut t r g b := by
  obtain ⟨hblack, hwhite⟩ := lumNum_black_le_le_white r g b
  by_cases h : lumNum r g b < 1000 * t.toNat
  · have hv : threshOut t r g b = 0 := if_pos h
    rw [hv]; exact if_pos (hblack.trans_lt h)
  · have hv : threshOut t r g b = 255 := if_neg h
    rw [hv]; exact if_neg fun h255 => h (hwhite.trans_lt h255)

theorem bayerOut_bayerOut (t : BitVec 9) (w l : Nat) (r g b : Byte) :
    bayerOut t w l (bayerOut t w l r g b) (bayerOut t w l r g b) (bayerOut t w l r g b) = bayerOut t w l r g b := by
  obtain ⟨hblack, hwhite⟩ := lumNum_black_le_le_white r g b
  by_cases h : t.toNat ≤ biased (bias w l) r g b
  · have hv : bayerOut t w l r g b = 255 := if_pos h
    rw [hv]; exact if_pos (h.trans (biased_le_of_lumNum_le _ hwhite))
  · have hv : bayerOut t w l r g b = 0 := if_neg h
    rw [hv]; exact if_neg fun h0 => h (h0.trans (biased_le_of_lumNum_le _ hblack))

theorem outputFunction_outputFunction (i : Instr) (s : State) (r g b : Byte) :
    outputFunction i s (outputFunction i s r g b) (outputFunction i s r g b) (outputFunction i s r g b) =
      outputFunction i s r g b := by
  cases i with
  | gray => exact lum8_grey _
  | thresh t => exact threshOut_threshOut t r g b
  | bayer t => exact bayerOut_bayerOut t _ _ r g b
  | fsd => exact lum8_grey _
  | atk => exact lum8_grey _

end Sys2Proof.Machine
end

section
/-! SUPPORT. The `SCAN` step of a pointwise operation, said once for the three: a pixel step and the completion step
(41_pointwise.md R100). -/

namespace Sys2Proof.Machine

/-- A step that reads pixel `l` may get these three channels (R17, R51). -/
def Memory.MayReadPixel (m : Memory) (l : Nat) (r g b : Byte) : Prop :=
  m.MayRead (4 * l) r ∧ m.MayRead (4 * l + 1) g ∧ m.MayRead (4 * l + 2) b

theorem firstPhase_of_opcode {i : Instr} (h : i.opcode = 1 ∨ i.opcode = 2 ∨ i.opcode = 3) : firstPhase i = .scan := by
  cases i <;> simp_all [firstPhase, Instr.opcode]

/-- A pixel step: the pixel at `POS` gets the operation's output for the channels read. -/
theorem exec_scan_pixel {s : State} {i : Instr} (h : s.phase = .scan) (hi : firstPhase i = .scan)
    (hl : s.pos < s.npix) :
    ∃ (r g b : Byte) (m : Memory) (d : Nat), s.pix.MayReadPixel s.pos r g b ∧
      s.pix.PixelSet s.pos (outputFunction i s r g b) m ∧
      exec i s = .next { s with pix := m, pos := s.pos + 1, draws := d } := by
  obtain ⟨-, r, g, b, hr, hg, hb, hset, hstep⟩ | ⟨hn, -⟩ := s.scanStep_cases (outputFunction i s)
  · exact ⟨r, g, b, _, _, ⟨hr, hg, hb⟩, hset, by rw [exec_scan h hi]; exact congrArg _ hstep⟩
  · omega

/-- The completion step. -/
theorem exec_scan_end {s : State} {i : Instr} (h : s.phase = .scan) (hi : firstPhase i = .scan)
    (hl : s.pos = s.npix) : exec i s = .next { s with phase := .idle, done := true } := by
  obtain ⟨hn, -⟩ | ⟨-, hstep⟩ := s.scanStep_cases (outputFunction i s)
  · omega
  · rw [exec_scan h hi, hstep]

/-- In `SCAN` operations with the same outputs have the same step. -/
theorem exec_scan_congr {s : State} {i j : Instr} (h : s.phase = .scan) (hi : firstPhase i = .scan)
    (hj : firstPhase j = .scan) (hout : ∀ r g b, outputFunction i s r g b = outputFunction j s r g b) :
    exec i s = exec j s := by
  have heq : outputFunction i s = outputFunction j s := funext fun r => funext fun g => funext fun b => hout r g b
  rw [exec_scan h hi, exec_scan h hj, heq]

/-- Settles O17. -/
theorem grayPixelStep : Obligations.GrayPixelStep := by
  intro s hs hl
  obtain ⟨r, g, b, m, d, ⟨hr, hg, hb⟩, hset, hexec⟩ := exec_scan_pixel (i := .gray) hs rfl hl
  exact ⟨r, g, b, lum8 r g b, _, hr, hg, hb, lum8_toNat r g b, hexec, hset, rfl⟩

/-- Settles O18. -/
theorem threshPixelStep : Obligations.ThreshPixelStep := by
  intro s thr hs hl
  obtain ⟨r, g, b, m, d, ⟨hr, hg, hb⟩, hset, hexec⟩ := exec_scan_pixel (i := .thresh thr) hs rfl hl
  exact ⟨r, g, b, _, hr, hg, hb, hexec, hset, rfl⟩

/-- Settles O19: the bias of `POS` is the printed matrix entry. -/
theorem bayerPixelStep : Obligations.BayerPixelStep := by
  intro s thr hs hl
  obtain ⟨r, g, b, m, d, ⟨hr, hg, hb⟩, hset, hexec⟩ := exec_scan_pixel (i := .bayer thr) hs rfl hl
  refine ⟨r, g, b, _, hr, hg, hb, hexec, ?_, rfl⟩
  rw [← bias_eq_matrixAt]; exact hset

/-- Settles O20. -/
theorem pointwiseCompletionStep : Obligations.PointwiseCompletionStep := fun _ hs hl =>
  ⟨exec_scan_end hs rfl hl, fun _ => exec_scan_end hs rfl hl, fun _ => exec_scan_end hs rfl hl⟩

/-- Settles O21: beyond each bound the output is constant, and a step depends on the threshold by its output alone. -/
theorem thresholdSaturates : Obligations.ThresholdSaturates := by
  refine ⟨fun t r g b h => threshOut_of_ge h r g b, fun t w l r g b h => bayerOut_of_ge h w l r g b,
    fun t w l r g b h => bayerOut_of_le h w l r g b, fun s t hs => ⟨fun h => ?_, fun h => ?_, fun h => ?_⟩⟩
  · exact exec_scan_congr hs rfl rfl fun r g b =>
      (threshOut_of_ge h r g b).trans (threshOut_of_ge (by decide) r g b).symm
  · exact exec_scan_congr hs rfl rfl fun r g b =>
      (bayerOut_of_ge h _ _ r g b).trans (bayerOut_of_ge (by decide) _ _ r g b).symm
  · exact exec_scan_congr hs rfl rfl fun r g b =>
      (bayerOut_of_le h _ _ r g b).trans (bayerOut_of_le (by decide) _ _ r g b).symm

end Sys2Proof.Machine
end

section
/-! SUPPORT. Whole pointwise operations: what `PIX` is after `k` pixel steps, as a relation between two memories that
each pixel step extends by one position (41_pointwise.md R100, R109), and the run of the machine that realises it. -/

namespace Sys2Proof.Machine

/-! ### The image after `k` pixel steps -/

/-- From `m` to `m'` the first `k` pixels were scanned with output function `out l` at position `l`: their colour bytes
hold the output for the channels read, and every other byte reads as before. -/
structure Memory.ScannedTo (out : Nat → Byte → Byte → Byte → Byte) (k : Nat) (m m' : Memory) : Prop where
  scanned : ∀ l, l < k → ∃ r g b, m.MayReadPixel l r g b ∧ ∀ j, j < 3 → m'.read (4 * l + j) = some (out l r g b)
  other : ∀ a, a % 4 = 3 ∨ 4 * k ≤ a → m'.read a = m.read a

theorem Memory.MayRead.of_read_eq {m m' : Memory} {a : Nat} {v : Byte} (h : m'.MayRead a v)
    (heq : m'.read a = m.read a) : m.MayRead a v := fun b hb => h b (heq.trans hb)

/-- Channels that hold values are read as those values. -/
theorem Memory.MayReadPixel.eq_of_read {m : Memory} {l : Nat} {r g b r' g' b' : Byte} (h : m.MayReadPixel l r g b)
    (hr : m.read (4 * l) = some r') (hg : m.read (4 * l + 1) = some g') (hb : m.read (4 * l + 2) = some b') :
    r = r' ∧ g = g' ∧ b = b' := ⟨h.1 _ hr, h.2.1 _ hg, h.2.2 _ hb⟩

namespace Memory.ScannedTo

variable {out : Nat → Byte → Byte → Byte → Byte} {k n : Nat} {m m' m'' : Memory}

theorem zero : m.ScannedTo out 0 m := ⟨fun _ h => absurd h (Nat.not_lt_zero _), fun _ _ => rfl⟩

/-- One more pixel step: the pixel at `k` still reads as at the start of the scan. -/
theorem succ (h : m.ScannedTo out k m') {r g b : Byte} (hread : m'.MayReadPixel k r g b)
    (hset : m'.PixelSet k (out k r g b) m'') : m.ScannedTo out (k + 1) m'' where
  scanned := fun l hl => by
    by_cases hlk : l = k
    · subst hlk
      obtain ⟨hr, hg, hb⟩ := hread
      have hsame (j : Nat) : m'.read (4 * l + j) = m.read (4 * l + j) := h.other _ (by omega)
      exact ⟨r, g, b, ⟨hr.of_read_eq (hsame 0), hg.of_read_eq (hsame 1), hb.of_read_eq (hsame 2)⟩,
        fun j hj => hset.read_colour hj⟩
    · obtain ⟨r', g', b', hread', hv⟩ := h.scanned l (by omega)
      exact ⟨r', g', b', hread', fun j hj => (hset.read_other (by omega)).trans (hv j hj)⟩
  other := fun a ha => (hset.read_other (by omega)).trans (h.other a (by omega))

/-- A scanned pixel whose channels held values. -/
theorem read_colour (h : m.ScannedTo out k m') {l : Nat} (hl : l < k) {r g b : Byte} (hr : m.read (4 * l) = some r)
    (hg : m.read (4 * l + 1) = some g) (hb : m.read (4 * l + 2) = some b) {j : Nat} (hj : j < 3) :
    m'.read (4 * l + j) = some (out l r g b) := by
  obtain ⟨r', g', b', hread, hv⟩ := h.scanned l hl
  obtain ⟨rfl, rfl, rfl⟩ := hread.eq_of_read hr hg hb
  exact hv j hj

/-- A second scan changes no byte when the output functions keep their own results: the first has made every pixel
grey. -/
theorem read_of_idempotent (h : m.ScannedTo out k m') (h' : m'.ScannedTo out k m'')
    (hout : ∀ l r g b, out l (out l r g b) (out l r g b) (out l r g b) = out l r g b) (a : Nat) :
    m''.read a = m'.read a := by
  by_cases ha : a % 4 = 3 ∨ 4 * k ≤ a
  · exact h'.other a ha
  · obtain ⟨r, g, b, -, hv⟩ := h.scanned (a / 4) (by omega)
    have hv' := h'.read_colour (by omega) (hv 0 (by decide)) (hv 1 (by decide)) (hv 2 (by decide))
      (show a % 4 < 3 by omega)
    rw [hout, ← hv (a % 4) (by omega), Nat.div_add_mod] at hv'
    exact hv'

end Memory.ScannedTo

/-! ### The run -/

/-- The output function of operation `i` at position `l` of the image of `s`. -/
def State.outputAt (i : Instr) (s : State) (l : Nat) : Byte → Byte → Byte → Byte := outputFunction i (s.setPos l)

/-- The state during a scan: nothing is scheduled, `POS` is `k`, and of the rest only `PIX` and the draw count differ
from `s`. -/
def State.midScan (k : Nat) (m : Memory) (d : Nat) (s : State) : State :=
  { s with pending := [], pos := k, pix := m, draws := d }

theorem State.midScan_start {s : State} (h : s.pos = 0) : { s with pending := [] } = s.midScan 0 s.pix s.draws := by
  rw [State.midScan, ← h]

/-- With nothing scheduled the step of the machine is the operation's. -/
theorem step_midScan {s : State} {i : Instr} (hs : s.phase = .scan) (hd : decode s.cmdWord = .instr i) (k : Nat)
    (m : Memory) (d : Nat) : step (s.midScan k m d) = exec i (s.midScan k m d) :=
  step_of_busy rfl (by simp [State.midScan, hs]) hd

section
variable {s : State} {i : Instr} (hs : s.phase = .scan) (hpos : s.pos = 0) (hd : decode s.cmdWord = .instr i)
  (hi : firstPhase i = .scan)
include hs hpos hd hi

/-- After `k ≤ NPIX` engine steps the first `k` pixels are scanned and the block is still in `SCAN`. -/
theorem runEngine_scan {k : Nat} (hk : k ≤ s.npix) :
    ∃ (m : Memory) (d : Nat), runEngine k s = .next (s.midScan k m d) ∧ s.pix.ScannedTo (s.outputAt i) k m := by
  induction k with
  | zero => exact ⟨s.pix, s.draws, congrArg _ (State.midScan_start hpos), .zero⟩
  | succ k ih =>
    obtain ⟨m, d, hrun, hscan⟩ := ih (by omega)
    obtain ⟨r, g, b, m', d', hread, hset, hexec⟩ := exec_scan_pixel (s := s.midScan k m d) hs hi hk
    exact ⟨m', d', runSteps_snoc hrun ((step_midScan hs hd k m d).trans hexec), hscan.succ hread hset⟩

/-- One engine step later the operation is complete. -/
theorem runEngine_scan_complete :
    ∃ (m : Memory) (d : Nat),
      runEngine (s.npix + 1) s = .next { s.midScan s.npix m d with phase := .idle, done := true } ∧
      s.pix.ScannedTo (s.outputAt i) s.npix m := by
  obtain ⟨m, d, hrun, hscan⟩ := runEngine_scan hs hpos hd hi le_rfl
  have hexec := exec_scan_end (s := s.midScan s.npix m d) hs hi rfl
  exact ⟨m, d, runSteps_snoc hrun ((step_midScan hs hd _ m d).trans hexec), hscan⟩

theorem runEngine_stays_in_scan (k : Nat) (hk : k ≤ s.npix) : ∃ u, runEngine k s = .next u ∧ u.phase = .scan := by
  obtain ⟨m, d, hrun, -⟩ := runEngine_scan hs hpos hd hi hk
  exact ⟨_, hrun, hs⟩

end

/-- Settles O22: the image of `GRAY` at every position is the luminance. -/
theorem grayRunReplacesEveryPixel : Obligations.GrayRunReplacesEveryPixel := by
  intro s hs hpos hd
  obtain ⟨m, d, hrun, hscan⟩ := runEngine_scan_complete hs hpos hd rfl
  refine ⟨runEngine_stays_in_scan hs hpos hd rfl, _, hrun, rfl, fun l r g b hl hr hg hb => ?_, hscan.other⟩
  have hv {j : Nat} (hj : j < 3) : m.read (4 * l + j) = some (lum8 r g b) := hscan.read_colour hl hr hg hb hj
  exact ⟨hv (by decide : 0 < 3), hv (by decide), hv (by decide)⟩

/-- Settles O23: for `BAYER` the bias of a position is the printed matrix entry. -/
theorem threshAndBayerRunsBinariseEveryPixel : Obligations.ThreshAndBayerRunsBinariseEveryPixel := by
  intro s thr hs hpos
  refine ⟨fun hd => ⟨runEngine_stays_in_scan hs hpos hd rfl, ?_⟩,
    fun hd => ⟨runEngine_stays_in_scan hs hpos hd rfl, ?_⟩⟩
  · obtain ⟨m, d, hrun, hscan⟩ := runEngine_scan_complete hs hpos hd rfl
    exact ⟨_, hrun, rfl, fun l r g b hl hr hg hb k hk => hscan.read_colour hl hr hg hb hk, hscan.other⟩
  · obtain ⟨m, d, hrun, hscan⟩ := runEngine_scan_complete hs hpos hd rfl
    refine ⟨_, hrun, rfl, fun l r g b hl hr hg hb k hk => ?_, hscan.other⟩
    rw [← bias_eq_matrixAt]; exact hscan.read_colour hl hr hg hb hk

/-- Settles O24: the second run scans the same positions with the same output functions, each of which keeps its own
result. -/
theorem pointwiseRunsAreIdempotent : Obligations.PointwiseRunsAreIdempotent := by
  intro s i hs hpos hd hopc
  have hi : firstPhase i = .scan := firstPhase_of_opcode hopc
  obtain ⟨m, d, hrun, hscan⟩ := runEngine_scan_complete hs hpos hd hi
  obtain ⟨m', d', hrun', hscan'⟩ := runEngine_scan_complete (i := i)
    (s := { s.midScan 0 m d with phase := .scan, done := false }) rfl rfl hd hi
  exact ⟨_, _, hrun, hrun', hscan.read_of_idempotent hscan' fun l => outputFunction_outputFunction i (s.setPos l)⟩

end Sys2Proof.Machine
end

section
/-! SUPPORT. The arithmetic of error diffusion: the binarised value and the error quotient on numbers
(42_error_diffusion.md R123, R124), the weights of the two tables (R126, R127), clamped addition, and the accumulator on
entries that hold values (R125, R133). -/

namespace Sys2Proof.Machine

/-! ### The error quotient (R123, R124) -/

/-- The quotient with the binarised value written out. -/
theorem errorQuotient_eq_fdiv (d : Int) (a : Byte) :
    errorQuotient d a = Int.fdiv ((a.toNat : Int) - (if a.toNat < 129 then 0 else 255)) d := by
  rw [errorQuotient, binarise_toNat]
  split <;> rfl

theorem binarise_eq_blackOrWhite (a : Byte) : ((binarise a).toNat : Int) = blackOrWhite a.toNat := by
  rw [binarise_toNat, blackOrWhite, Nat.cast_ite]
  exact if_congr (by omega) rfl rfl

theorem errorQuotient_eq_blackOrWhite (d : Int) (a : Byte) :
    errorQuotient d a = Int.fdiv ((a.toNat : Int) - blackOrWhite a.toNat) d := by
  rw [errorQuotient, binarise_eq_blackOrWhite]; rfl

theorem errorQuotient_of_black {d : Int} (hd : 0 ≤ d) {a : Byte} (h : a.toNat < 129) :
    errorQuotient d a = (a.toNat : Int) / d := by
  rw [errorQuotient_eq hd, if_pos h, Int.sub_zero]

theorem errorQuotient_of_white {d : Int} (hd : 0 ≤ d) {a : Byte} (h : 129 ≤ a.toNat) :
    errorQuotient d a = ((a.toNat : Int) - 255) / d := by
  rw [errorQuotient_eq hd, if_neg (by omega)]

/-- The quotient is the floor. -/
theorem errorQuotient_floor {d : Int} (hd : 0 < d) (a : Byte) :
    errorQuotient d a * d ≤ (a.toNat : Int) - (binarise a).toNat ∧
    (a.toNat : Int) - (binarise a).toNat < (errorQuotient d a + 1) * d := by
  rw [errorQuotient, fdiv_eq_div _ hd.le]
  exact ⟨Int.ediv_mul_le _ hd.ne', Int.lt_ediv_add_one_mul_self _ hd⟩

/-- The error `D` as the 9-bit number of R124. -/
def errorBits (a : Byte) : BitVec 9 := BitVec.ofInt 9 ((a.toNat : Int) - (binarise a).toNat)

/-- The error fits in 9 bits. -/
theorem errorBits_toInt (a : Byte) : (errorBits a).toInt = (a.toNat : Int) - (binarise a).toNat := by
  have ha := a.isLt
  rw [errorBits, BitVec.toInt_ofInt, binarise_toNat]
  split
  · exact Int.bmod_eq_of_le (by omega) (by omega)
  · exact Int.bmod_eq_of_le (by omega) (by omega)

/-- Division by a power of two is the arithmetic shift of the error. -/
theorem errorQuotient_eq_sshiftRight (n : Nat) (a : Byte) :
    errorQuotient ((2 ^ n : Nat) : Int) a = ((errorBits a).sshiftRight n).toInt := by
  rw [BitVec.toInt_sshiftRight, Int.shiftRight_eq_div_pow, errorBits_toInt, errorQuotient,
    fdiv_eq_div _ (Int.natCast_nonneg _)]

theorem errorQuotient_fsd_range (a : Byte) : -8 ≤ errorQuotient fsdDivisor a ∧ errorQuotient fsdDivisor a ≤ 8 := by
  have ha := a.isLt
  rw [fsdDivisor, errorQuotient_eq (by decide)]
  split <;> omega

theorem errorQuotient_atk_range (a : Byte) : -16 ≤ errorQuotient atkDivisor a ∧ errorQuotient atkDivisor a ≤ 16 := by
  have ha := a.isLt
  rw [atkDivisor, errorQuotient_eq (by decide)]
  split <;> omega

/-- Settles O27: the black half of the table is the plain quotient, the white half that of `A - 255`, and both divisors
are powers of two. -/
theorem errorQuotientTable : Obligations.ErrorQuotientTable := by
  refine ⟨rfl, rfl, by decide, fun a => ?_⟩
  have ha := a.isLt
  have black16 (h : a.toNat < 129) : errorQuotient 16 a = (a.toNat : Int) / 16 := errorQuotient_of_black (by decide) h
  have black8 (h : a.toNat < 129) : errorQuotient 8 a = (a.toNat : Int) / 8 := errorQuotient_of_black (by decide) h
  have white16 (h : 129 ≤ a.toNat) : errorQuotient 16 a = ((a.toNat : Int) - 255) / 16 :=
    errorQuotient_of_white (by decide) h
  have white8 (h : 129 ≤ a.toNat) : errorQuotient 8 a = ((a.toNat : Int) - 255) / 8 :=
    errorQuotient_of_white (by decide) h
  refine ⟨if_congr Nat.lt_succ_iff rfl rfl, fun d hd => errorQuotient_floor hd a, fun h => ?_, fun h => ?_,
    fun k h1 h7 hlo hhi => ?_, fun k h1 h15 hlo hhi => ?_, fun h h142 => ?_, fun h h134 => ?_, ?_,
    errorBits_toInt a, errorQuotient_eq_sshiftRight 4 a, errorQuotient_eq_sshiftRight 3 a⟩
  · rw [black16 (by omega), black8 (by omega)]; omega
  · rw [white16 h, white8 h]; omega
  · rw [white16 (by omega)]; omega
  · rw [white8 (by omega)]; omega
  · rw [white16 h]; omega
  · rw [white8 h]; omega
  · rintro rfl; decide

/-! ### The weights of the tables (R126, R127) -/

theorem fsdNeighbours_weight (w : Nat) : ∀ n ∈ fsdNeighbours w, 0 ≤ n.2 ∧ n.2 ≤ 7 := by simp [fsdNeighbours]

theorem atkNeighbours_weight (w : Nat) : ∀ n ∈ atkNeighbours w, n.2 = 1 := by simp [atkNeighbours]

/-- A contribution of `FSD` is at most `8 * 7` in absolute value (R125). -/
theorem fsd_contribution_range (a : Byte) {w : Nat} {n : Nat × Int} (hn : n ∈ fsdNeighbours w) :
    -56 ≤ errorQuotient fsdDivisor a * n.2 ∧ errorQuotient fsdDivisor a * n.2 ≤ 56 := by
  obtain ⟨hlow, hhigh⟩ := fsdNeighbours_weight w n hn
  have he := errorQuotient_fsd_range a
  constructor <;> nlinarith

/-! ### Clamped addition (R125, R133) -/

/-- Of two additions of one sign the first clamp cannot be observed (R133). -/
theorem clamp8_clamp8_add (a : Byte) {c d : Int} (h : (0 ≤ c ∧ 0 ≤ d) ∨ (c ≤ 0 ∧ d ≤ 0)) :
    clamp8 ((clamp8 ((a.toNat : Int) + c)).toNat + d) = clamp8 ((a.toNat : Int) + c + d) := by
  have ha := a.isLt
  apply BitVec.eq_of_toNat_eq
  rw [← Int.ofNat_inj, clamp8_toNat, clamp8_toNat, clamp8_toNat]
  omega

/-- `ACC` on an entry that holds a value: one write and one byte read (R125). -/
theorem State.acc_of_read {s : State} {j : Nat} {x : Byte} (hj : j < s.npix) (hx : s.lum.read j = some x) (c : Int) :
    s.acc j c = (s.writeLum j (clamp8 ((x.toNat : Int) + c))).spendDraws 1 := by
  rw [State.acc, if_pos hj, State.lumAt, readOr_of_read hx]

/-- Settles O28. -/
theorem accumulatorClampsOrDrops : Obligations.AccumulatorClampsOrDrops := by
  refine ⟨fun s j c x hj hx => ?_, fun s j c hj => State.acc_of_beyond hj c, fun a x off w => ⟨fun h => ?_, fun h => ?_⟩⟩
  · refine ⟨clamp8 ((x.toNat : Int) + c), ?_, clamp8_toNat _, fun k hk => ?_, State.acc_frame s j c⟩
    · rw [State.acc_of_read hj hx]; exact Memory.read_write_same _ _ _
    · rw [State.acc_lum_read, if_neg fun h => hk h.1]
  · have hx := x.isLt
    have hc := fsd_contribution_range a h
    omega
  · rw [atkNeighbours_weight w off h, mul_one]
    exact errorQuotient_atk_range a

/-- An update of entry `j` leaves another entry as it reads. -/
theorem State.acc_lum_read_other {j k : Nat} (h : k ≠ j) (s : State) (c : Int) :
    (s.acc j c).lum.read k = s.lum.read k := by
  rw [State.acc_lum_read, if_neg fun hk => h hk.1]

/-- Two updates of one entry that holds a value are one update and two byte reads, if they have one sign. -/
theorem State.acc_acc_same {s : State} {j : Nat} {x : Byte} {c d : Int} (h : (0 ≤ c ∧ 0 ≤ d) ∨ (c ≤ 0 ∧ d ≤ 0))
    (hwf : s.lum.wf) (hj : j < s.npix) (hx : s.lum.read j = some x) :
    (s.acc j c).acc j d = (s.writeLum j (clamp8 ((x.toNat : Int) + c + d))).spendDraws 2 := by
  have hfirst := State.acc_of_read hj hx c
  have hread : (s.acc j c).lum.read j = some (clamp8 ((x.toNat : Int) + c)) := by
    rw [hfirst]; exact Memory.read_write_same _ _ _
  rw [State.acc_of_read (by simpa using hj) hread, clamp8_clamp8_add x h, hfirst]
  simp only [State.writeLum, State.spendDraws, Memory.write_write hwf]

/-- Updates of two entries that hold values are independent, whatever their signs. -/
theorem State.acc_comm_of_ne {s : State} {j k : Nat} {x y : Byte} (hne : j ≠ k) (hwf : s.lum.wf) (hj : j < s.npix)
    (hx : s.lum.read j = some x) (hk : k < s.npix) (hy : s.lum.read k = some y) (c d : Int) :
    (s.acc j c).acc k d = (s.acc k d).acc j c := by
  have hxk : (s.acc k d).lum.read j = some x := (State.acc_lum_read_other hne s d).trans hx
  have hyj : (s.acc j c).lum.read k = some y := (State.acc_lum_read_other hne.symm s c).trans hy
  rw [State.acc_of_read (by simpa using hk) hyj, State.acc_of_read (by simpa using hj) hxk,
    State.acc_of_read hj hx, State.acc_of_read hk hy]
  simp only [State.writeLum, State.spendDraws, Memory.write_comm hwf _ _ hne]

/-- An update beyond the plane commutes with every update, for it does nothing. -/
theorem State.acc_comm_of_beyond {s : State} {j : Nat} (h : s.npix ≤ j) (k : Nat) (c d : Int) :
    (s.acc j c).acc k d = (s.acc k d).acc j c := by
  rw [State.acc_of_beyond h, State.acc_of_beyond (s := s.acc k d) (by simpa using h)]

/-- Updates of one sign commute, those of the same entry because they may be summed. -/
theorem State.acc_comm {s : State} {j k : Nat} {c d : Int} (h : (0 ≤ c ∧ 0 ≤ d) ∨ (c ≤ 0 ∧ d ≤ 0)) (hwf : s.lum.wf)
    (hfill : s.PlaneFilled s.npix) : (s.acc j c).acc k d = (s.acc k d).acc j c := by
  by_cases hj : j < s.npix
  · by_cases hk : k < s.npix
    · obtain ⟨x, hx⟩ := Option.ne_none_iff_exists'.1 (hfill j hj)
      obtain ⟨y, hy⟩ := Option.ne_none_iff_exists'.1 (hfill k hk)
      by_cases hjk : j = k
      · subst hjk
        rw [State.acc_acc_same h hwf hj hx, State.acc_acc_same (h.imp And.symm And.symm) hwf hj hx, add_right_comm]
      · exact State.acc_comm_of_ne hjk hwf hj hx hk hy c d
    · exact (State.acc_comm_of_beyond (Nat.le_of_not_lt hk) j d c).symm
  · exact State.acc_comm_of_beyond (Nat.le_of_not_lt hj) k c d

theorem neighbours_weight_nonneg {w : Nat} {n : Nat × Int} (h : n ∈ fsdNeighbours w ∨ n ∈ atkNeighbours w) :
    0 ≤ n.2 := by
  rcases h with h | h
  · exact (fsdNeighbours_weight w n h).1
  · rw [atkNeighbours_weight w n h]; decide

/-- Settles O29: no weight is negative. -/
theorem contributionsOfOnePositionCommute : Obligations.ContributionsOfOnePositionCommute := by
  refine ⟨fun w n e hn => ?_, fun a c d h => clamp8_clamp8_add a h,
    fun s j k c d h hwf hfill => State.acc_comm h hwf hfill, by decide, by decide⟩
  have hweight := neighbours_weight_nonneg hn
  exact ⟨fun he => Int.mul_nonneg he hweight, fun he => Int.mul_nonpos_of_nonpos_of_nonneg he hweight⟩

end Sys2Proof.Machine
end

section
/-! SUPPORT. The steps of the diffusion operations, said once for both: a pixel step of each pass, the change of pass
and the completion step (42_error_diffusion.md sections 2 and 3). -/

namespace Sys2Proof.Machine

/-! ### The two operations -/

/-- `DIV` of a diffusion operation (R124); of no use for the others. -/
def divisorOf (i : Instr) : Int :=
  match i with
  | .gray => fsdDivisor
  | .thresh _ => fsdDivisor
  | .bayer _ => fsdDivisor
  | .fsd => fsdDivisor
  | .atk => atkDivisor

/-- The neighbour table of a diffusion operation for width `w` (R126, R127); of no use for the others. -/
def neighboursOf (i : Instr) (w : Nat) : List (Nat × Int) :=
  match i with
  | .gray => fsdNeighbours w
  | .thresh _ => fsdNeighbours w
  | .bayer _ => fsdNeighbours w
  | .fsd => fsdNeighbours w
  | .atk => atkNeighbours w

theorem firstPhase_eq_pass1_iff {i : Instr} : firstPhase i = .pass1 ↔ i = .fsd ∨ i = .atk := by
  cases i <;> simp [firstPhase]

/-- In `PASS2` a diffusion operation has the `PASS2` step with its divisor and its table (R128, R129). -/
theorem exec_pass2 {s : State} {i : Instr} (h : s.phase = .pass2) (hi : firstPhase i = .pass1) :
    exec i s = .next (s.pass2Step (divisorOf i) (neighboursOf i s.width.toNat)) := by
  obtain rfl | rfl := firstPhase_eq_pass1_iff.1 hi
  · exact exec_fsd_pass2 h
  · exact exec_atk_pass2 h

/-! ### The steps of pass 1 (R121, R122) -/

/-- A pixel step of pass 1: the luminance of the channels read goes to the plane entry at `POS`. -/
theorem exec_pass1_pixel {s : State} {i : Instr} (h : s.phase = .pass1) (hi : firstPhase i = .pass1)
    (hl : s.pos < s.npix) :
    ∃ (r g b : Byte) (d : Nat), s.pix.MayReadPixel s.pos r g b ∧
      exec i s = .next { s with lum := s.lum.write s.pos (lum8 r g b), pos := s.pos + 1, draws := d } := by
  obtain ⟨-, r, g, b, hr, hg, hb, hstep⟩ | ⟨hn, -⟩ := s.pass1Step_cases
  · exact ⟨r, g, b, _, ⟨hr, hg, hb⟩, by rw [exec_pass1 h hi, hstep]⟩
  · omega

/-- The change of pass. -/
theorem exec_pass1_end {s : State} {i : Instr} (h : s.phase = .pass1) (hi : firstPhase i = .pass1)
    (hl : s.pos = s.npix) : exec i s = .next { s with phase := .pass2, pos := 0 } := by
  obtain ⟨hn, -⟩ | ⟨-, hstep⟩ := s.pass1Step_cases
  · omega
  · rw [exec_pass1 h hi, hstep]

/-- Settles O25. -/
theorem pass1PixelStep : Obligations.Pass1PixelStep := by
  intro s i hi hs hl
  obtain ⟨r, g, b, d, ⟨hr, hg, hb⟩, hexec⟩ := exec_pass1_pixel hs (firstPhase_eq_pass1_iff.2 hi) hl
  exact ⟨r, g, b, lum8 r g b, _, hr, hg, hb, lum8_toNat r g b, hexec, Memory.read_write_same _ _ _,
    fun j hj => Memory.read_write_other _ _ hj, rfl⟩

/-- Settles O26. -/
theorem changeOfPass : Obligations.ChangeOfPass := fun _ _ hi hs hl =>
  ⟨_, exec_pass1_end hs (firstPhase_eq_pass1_iff.2 hi) hl, rfl, rfl, rfl⟩

/-! ### The steps of pass 2 (R128 to R130) -/

/-- From `m` to `m'` the contributions of error quotient `e` at position `l` of a plane of `n` entries were made: each
entry that holds a value received its clamped additions in table order, every other entry reads as before. -/
structure Memory.Diffused (n l : Nat) (e : Int) (ns : List (Nat × Int)) (m m' : Memory) : Prop where
  added : ∀ j x, j < n → m.read j = some x → ∃ z : Byte, m'.read j = some z ∧
    (z.toNat : Int) = ns.foldl (fun y p => clampedAdd l j p.1 (e * p.2) y) x.toNat
  beyond : ∀ j, n ≤ j → m'.read j = m.read j
  other : ∀ j, (∀ p ∈ ns, j ≠ l + p.1) → m'.read j = m.read j

theorem State.diffuse_diffused (l : Nat) (e : Int) (ns : List (Nat × Int)) (s : State) :
    s.lum.Diffused s.npix l e ns (State.diffuse l e ns s).lum where
  added := fun _ _ hj hx => State.diffuse_lum_read_some e ns hj hx
  beyond := fun _ hj => State.diffuse_lum_read_beyond e ns hj
  other := fun _ hj => State.diffuse_lum_read_other e s hj

/-- A pixel step of pass 2: the pixel at `POS` becomes the binarised plane entry and the error is diffused. -/
theorem exec_pass2_pixel {s : State} {i : Instr} (h : s.phase = .pass2) (hi : firstPhase i = .pass1)
    (hl : s.pos < s.npix) :
    ∃ (a : Byte) (p q : Memory) (d : Nat), s.lum.MayRead s.pos a ∧ s.pix.PixelSet s.pos (binarise a) p ∧
      s.lum.Diffused s.npix s.pos (errorQuotient (divisorOf i) a) (neighboursOf i s.width.toNat) q ∧
      exec i s = .next { s with pix := p, lum := q, pos := s.pos + 1, draws := d } := by
  obtain ⟨-, a, u, ha, hset, hulum, hunpix, hpix, hlum, hstep⟩ | ⟨hn, -⟩ :=
    s.pass2Step_cases (divisorOf i) (neighboursOf i s.width.toNat)
  · refine ⟨a, _, _, _, ha, hpix ▸ hset, ?_, by rw [exec_pass2 h hi]; exact congrArg _ hstep⟩
    rw [hlum, ← hulum, ← hunpix]
    exact State.diffuse_diffused _ _ _ u
  · omega

/-- The completion step. -/
theorem exec_pass2_end {s : State} {i : Instr} (h : s.phase = .pass2) (hi : firstPhase i = .pass1)
    (hl : s.pos = s.npix) : exec i s = .next { s with phase := .idle, done := true } := by
  obtain ⟨hn, -⟩ | ⟨-, hstep⟩ := s.pass2Step_cases (divisorOf i) (neighboursOf i s.width.toNat)
  · omega
  · rw [exec_pass2 h hi, hstep]

/-- Settles O32. -/
theorem diffusionCompletionStep : Obligations.DiffusionCompletionStep := fun _ hs hl =>
  ⟨exec_pass2_end hs rfl hl, exec_pass2_end hs rfl hl⟩

/-- Settles O30: the four rows of the table in order. -/
theorem fsdPass2PixelStep : Obligations.FsdPass2PixelStep := by
  intro s hs hl
  obtain ⟨a, p, q, d, ha, hset, hdiff, hexec⟩ := exec_pass2_pixel (i := .fsd) hs rfl hl
  refine ⟨a, _, _, ha, errorQuotient_eq_fdiv 16 a, hexec, hset, hdiff.added, hdiff.beyond, fun j hj => ?_, rfl⟩
  exact hdiff.other j fun n hn hjn => hj (hjn ▸ List.mem_map_of_mem (f := fun n => s.pos + n.1) hn)

/-- Settles O31: the six rows of the table in order, each of weight 1. -/
theorem atkPass2PixelStep : Obligations.AtkPass2PixelStep := by
  intro s hs hl
  obtain ⟨a, p, q, d, ha, hset, hdiff, hexec⟩ := exec_pass2_pixel (i := .atk) hs rfl hl
  refine ⟨a, _, _, ha, errorQuotient_eq_fdiv 8 a, hexec, hset, fun j x hj hx => ?_, hdiff.beyond, fun j hj => ?_, rfl⟩
  · have hadd := hdiff.added j x hj hx
    simp only [neighboursOf, atkNeighbours, List.foldl_cons, List.foldl_nil, mul_one] at hadd
    exact hadd
  · exact hdiff.other j fun n hn hjn => hj (hjn ▸ List.mem_map_of_mem (f := fun n => s.pos + n.1) hn)

/-! ### Forward only (R134) -/

/-- Every neighbour of a position in rows of more than one pixel lies behind it. -/
theorem neighboursOf_offset_pos {i : Instr} (hi : firstPhase i = .pass1) {w : Nat} (hw : 1 < w) :
    ∀ n ∈ neighboursOf i w, 0 < n.1 := by
  obtain rfl | rfl := firstPhase_eq_pass1_iff.1 hi
  · simp [neighboursOf, fsdNeighbours]; omega
  · simp [neighboursOf, atkNeighbours]; omega

/-- An image with a position has a row length. -/
theorem State.width_pos_of_lt_npix {s : State} {l : Nat} (h : l < s.npix) : 0 < s.width.toNat :=
  Nat.pos_of_mul_pos_right (Nat.zero_lt_of_lt h)

/-- Settles O33: no offset of a table is negative, and for `W ≥ 2` none is 0. -/
theorem diffusionIsForwardOnly : Obligations.DiffusionIsForwardOnly := by
  intro s i hi hs hl
  have hfirst : firstPhase i = .pass1 := firstPhase_eq_pass1_iff.2 hi
  obtain ⟨a, p, q, d, -, -, hdiff, hexec⟩ := exec_pass2_pixel hs hfirst hl
  refine ⟨_, hexec, fun j hj => hdiff.other j fun n _ => by omega, fun hw => hdiff.other _ fun n hn => ?_⟩
  have hwidth : 0 < s.width.toNat := State.width_pos_of_lt_npix hl
  have hoffset : 0 < n.1 := neighboursOf_offset_pos hfirst (by omega) n hn
  omega

end Sys2Proof.Machine
end

section
/-! SUPPORT. Whole diffusion operations: what the luminance plane and `PIX` hold in each pass, as relations that each
pixel step extends by one position, and the run of the machine that realises them (42_error_diffusion.md R120 to R130,
R136). -/

namespace Sys2Proof.Machine

/-! ### The plane and the image during the two passes -/

/-- The first `n` entries of a plane hold the values of `f`. -/
def Memory.HoldsPlane (f : Nat → Int) (n : Nat) (m : Memory) : Prop :=
  ∀ j, j < n → ∃ x : Byte, m.read j = some x ∧ (x.toNat : Int) = f j

/-- The colour bytes of the first `n` pixels hold values, whose 8-bit luminances are those of `lum` (R94). -/
def Memory.HasLuminances (lum : Nat → Int) (n : Nat) (m : Memory) : Prop :=
  ∀ l, l < n → ∃ r g b, m.read (4 * l) = some r ∧ m.read (4 * l + 1) = some g ∧ m.read (4 * l + 2) = some b ∧
    lum l = ((299 * r.toNat + 587 * g.toNat + 114 * b.toNat) / 1000 : Nat)

/-- From `m` to `m'` the first `k` pixels became black or white as the values of `f` say, and every other byte reads as
before. -/
structure Memory.BinarisedTo (f : Nat → Int) (k : Nat) (m m' : Memory) : Prop where
  binarised : ∀ l, l < k → ∀ j, j < 3 → ∃ v : Byte, m'.read (4 * l + j) = some v ∧ (v.toNat : Int) = blackOrWhite (f l)
  other : ∀ a, a % 4 = 3 ∨ 4 * k ≤ a → m'.read a = m.read a

/-- A pixel step of pass 1 extends the plane by one luminance (R121). -/
theorem Memory.HoldsPlane.write_lum8 {f : Nat → Int} {n k : Nat} {image m : Memory} (h : m.HoldsPlane f k)
    (himage : image.HasLuminances f n) (hk : k < n) {r g b : Byte} (hread : image.MayReadPixel k r g b) :
    (m.write k (lum8 r g b)).HoldsPlane f (k + 1) := by
  intro j hj
  by_cases hjk : j = k
  · subst hjk
    obtain ⟨r', g', b', hr, hg, hb, hlum⟩ := himage j hk
    obtain ⟨rfl, rfl, rfl⟩ := hread.eq_of_read hr hg hb
    exact ⟨lum8 r g b, Memory.read_write_same _ _ _, by rw [hlum, lum8_toNat]; rfl⟩
  · rw [Memory.read_write_other _ _ hjk]
    exact h j (by omega)

/-- The diffusion of position `k` takes the plane before `k` to the plane before `k + 1` (R128, R129). -/
theorem Memory.Diffused.holdsPlane_succ {d : Int} {ns : List (Nat × Int)} {lum : Nat → Int} {n k : Nat}
    {m m' : Memory} {a : Byte} (hdiff : m.Diffused n k (errorQuotient d a) ns m')
    (h : m.HoldsPlane (planeBefore d ns lum k) n) (ha : (a.toNat : Int) = planeBefore d ns lum k k) :
    m'.HoldsPlane (planeBefore d ns lum (k + 1)) n := by
  intro j hj
  obtain ⟨x, hx, hxv⟩ := h j hj
  obtain ⟨z, hz, hzv⟩ := hdiff.added j x hj hx
  exact ⟨z, hz, by rw [hzv, hxv, errorQuotient_eq_blackOrWhite, ha]; rfl⟩

namespace Memory.BinarisedTo

variable {f : Nat → Int} {k : Nat} {m m' m'' : Memory}

theorem zero : m.BinarisedTo f 0 m := ⟨fun _ h => absurd h (Nat.not_lt_zero _), fun _ _ => rfl⟩

/-- One more pixel step of pass 2. -/
theorem succ (h : m.BinarisedTo f k m') {a : Byte} (ha : (a.toNat : Int) = f k)
    (hset : m'.PixelSet k (binarise a) m'') : m.BinarisedTo f (k + 1) m'' where
  binarised := fun l hl j hj => by
    by_cases hlk : l = k
    · subst hlk
      exact ⟨binarise a, hset.read_colour hj, by rw [binarise_eq_blackOrWhite, ha]⟩
    · rw [hset.read_other (by omega)]
      exact h.binarised l (by omega) j hj
  other := fun a ha => (hset.read_other (by omega)).trans (h.other a (by omega))

end Memory.BinarisedTo

/-! ### The run -/

/-- The state during a diffusion operation: nothing is scheduled, the block is in phase `p` at position `k`, and of the
rest only the memories and the draw count differ from `s`. -/
def State.midPass (p : Phase) (k : Nat) (pix lum : Memory) (d : Nat) (s : State) : State :=
  { s with pending := [], phase := p, pos := k, pix := pix, lum := lum, draws := d }

/-- The plane of operation `i` on the image of `s` before position `k` is handled (R120 to R129). -/
def State.planeOf (i : Instr) (lum : Nat → Int) (s : State) : Nat → Nat → Int :=
  planeBefore (divisorOf i) (neighboursOf i s.width.toNat) lum

theorem State.midPass_start {s : State} (hs : s.phase = .pass1) (hpos : s.pos = 0) :
    { s with pending := [] } = s.midPass .pass1 0 s.pix s.lum s.draws := by
  rw [State.midPass, ← hs, ← hpos]

/-- With nothing scheduled the step of the machine is the operation's. -/
theorem step_midPass {s : State} {i : Instr} (hd : decode s.cmdWord = .instr i) {p : Phase} (hp : p ≠ .idle) (k : Nat)
    (pix lum : Memory) (d : Nat) : step (s.midPass p k pix lum d) = exec i (s.midPass p k pix lum d) :=
  step_of_busy rfl hp hd

section
variable {s : State} {i : Instr} {lum : Nat → Int} (hs : s.phase = .pass1) (hpos : s.pos = 0)
  (hd : decode s.cmdWord = .instr i) (hi : firstPhase i = .pass1) (himage : s.pix.HasLuminances lum s.npix)
include hs hpos hd hi himage

/-- After `k ≤ NPIX` engine steps the block is in pass 1 and the plane holds the first `k` luminances. -/
theorem runEngine_pass1 {k : Nat} (hk : k ≤ s.npix) :
    ∃ (q : Memory) (d : Nat), runEngine k s = .next (s.midPass .pass1 k s.pix q d) ∧ q.HoldsPlane lum k := by
  induction k with
  | zero => exact ⟨s.lum, s.draws, congrArg _ (State.midPass_start hs hpos), fun j hj => absurd hj (Nat.not_lt_zero j)⟩
  | succ k ih =>
    obtain ⟨q, d, hrun, hplane⟩ := ih (by omega)
    obtain ⟨r, g, b, d', hread, hexec⟩ := exec_pass1_pixel (s := s.midPass .pass1 k s.pix q d) rfl hi hk
    exact ⟨_, d', runSteps_snoc hrun ((step_midPass hd (by decide) k _ _ _).trans hexec),
      hplane.write_lum8 himage hk hread⟩

/-- `k ≤ NPIX` engine steps after the change of pass the first `k` pixels are black or white and the plane is the one
before position `k`. -/
theorem runEngine_pass2 {k : Nat} (hk : k ≤ s.npix) :
    ∃ (p q : Memory) (d : Nat), runEngine (s.npix + 1 + k) s = .next (s.midPass .pass2 k p q d) ∧
      q.HoldsPlane (s.planeOf i lum k) s.npix ∧ s.pix.BinarisedTo (fun l => s.planeOf i lum l l) k p := by
  induction k with
  | zero =>
    obtain ⟨q, d, hrun, hplane⟩ := runEngine_pass1 hs hpos hd hi himage le_rfl
    have hexec := exec_pass1_end (s := s.midPass .pass1 s.npix s.pix q d) rfl hi rfl
    exact ⟨s.pix, q, d, runSteps_snoc hrun ((step_midPass hd (by decide) _ _ _ _).trans hexec), hplane, .zero⟩
  | succ k ih =>
    obtain ⟨p, q, d, hrun, hplane, hbin⟩ := ih (by omega)
    obtain ⟨a, p', q', d', hread, hset, hdiff, hexec⟩ :=
      exec_pass2_pixel (s := s.midPass .pass2 k p q d) rfl hi hk
    obtain ⟨x, hx, hxv⟩ := hplane k hk
    obtain rfl : a = x := hread x hx
    exact ⟨p', q', d', runSteps_snoc hrun ((step_midPass hd (by decide) k _ _ _).trans hexec),
      hdiff.holdsPlane_succ hplane hxv, hbin.succ hxv hset⟩

theorem runEngine_stays_busy {k : Nat} (hk : k ≤ 2 * s.npix + 1) : ∃ u, runEngine k s = .next u ∧ u.phase ≠ .idle := by
  by_cases hpass : k ≤ s.npix
  · obtain ⟨q, d, hrun, -⟩ := runEngine_pass1 hs hpos hd hi himage hpass
    exact ⟨_, hrun, by simp [State.midPass]⟩
  · obtain ⟨j, rfl⟩ : ∃ j, k = s.npix + 1 + j := ⟨k - (s.npix + 1), by omega⟩
    obtain ⟨p, q, d, hrun, -⟩ := runEngine_pass2 hs hpos hd hi himage (show j ≤ s.npix by omega)
    exact ⟨_, hrun, by simp [State.midPass]⟩

/-- One engine step after the last pixel step of pass 2 the operation is complete. -/
theorem runEngine_diffusion_complete :
    ∃ (p q : Memory) (d : Nat), runEngine (2 * s.npix + 2) s =
      .next { s.midPass .pass2 s.npix p q d with phase := .idle, done := true } ∧
      s.pix.BinarisedTo (fun l => s.planeOf i lum l l) s.npix p := by
  obtain ⟨p, q, d, hrun, -, hbin⟩ := runEngine_pass2 hs hpos hd hi himage le_rfl
  have hexec := exec_pass2_end (s := s.midPass .pass2 s.npix p q d) rfl hi rfl
  have hlast := runSteps_snoc hrun ((step_midPass hd (by decide) _ _ _ _).trans hexec)
  refine ⟨p, q, d, ?_, hbin⟩
  rw [show 2 * s.npix + 2 = s.npix + 1 + s.npix + 1 by omega]
  exact hlast

end

/-- Settles O34: pass 1 fills the plane with the luminances, and each pixel step of pass 2 takes the plane before its
position to the plane before the next. -/
theorem diffusionRunsFollowThePlane : Obligations.DiffusionRunsFollowThePlane := by
  intro s lum hs hpos himage
  refine ⟨fun hd => ⟨fun k => runEngine_stays_busy hs hpos hd rfl himage, ?_⟩,
    fun hd => ⟨fun k => runEngine_stays_busy hs hpos hd rfl himage, ?_⟩⟩
  · obtain ⟨p, q, d, hrun, hbin⟩ := runEngine_diffusion_complete hs hpos hd rfl himage
    exact ⟨_, hrun, rfl, hbin.binarised, hbin.other⟩
  · obtain ⟨p, q, d, hrun, hbin⟩ := runEngine_diffusion_complete hs hpos hd rfl himage
    exact ⟨_, hrun, rfl, hbin.binarised, hbin.other⟩

end Sys2Proof.Machine
end

section
/-! SUPPORT. The write of a command to `CMD` (43_host_access.md R152): taking a fault, the four checks in
their order, and the acceptance. -/

namespace Sys2Proof.Machine

/-! ### The checks and the acceptance (R152, R174) -/

/-- Taking a fault writes `ERR` and `CAUSE` only (R171). -/
theorem State.raise_of_clear {s : State} {c : Cause} (h : s.err = false) :
    s.raise c = { s with err := true, cause := c.code } := by
  simp [State.raise, h]

/-- A fault raised while one is recorded is not reported. -/
theorem State.raise_of_err {s : State} {c : Cause} (h : s.err = true) : s.raise c = s := if_pos h

/-- Taking a fault, whether or not one is recorded (R171). -/
theorem State.raise_eq (s : State) (c : Cause) :
    s.raise c = { s with err := true, cause := if s.err then s.cause else c.code } := by
  cases he : s.err with
  | false => exact State.raise_of_clear he
  | true =>
    have herr : s = { s with err := true } := by rw [← he]
    exact (State.raise_of_err he).trans herr

theorem exec_of_err {s : State} {i : Instr} (hi : s.phase = .idle) (he : s.err = true) : exec i s = .next s := by
  rw [exec_idle hi, State.issue, if_pos he]

theorem exec_over_capacity {s : State} {i : Instr} (hi : s.phase = .idle) (he : s.err = false)
    (hn : s.maxPixels < s.npix) : exec i s = .next { s with err := true, cause := 2 } := by
  obtain ⟨he', -⟩ | ⟨-, -, ht⟩ | ⟨-, hn', -⟩ := s.issue_cases i.opcode i.threshold (firstPhase i)
  · simp [he] at he'
  · rw [exec_idle hi, ht]
  · omega

theorem exec_accepted {s : State} {i : Instr} (hi : s.phase = .idle) (he : s.err = false)
    (hn : s.npix ≤ s.maxPixels) : exec i s = .next (s.accept i.opcode i.threshold (firstPhase i)) := by
  obtain ⟨he', -⟩ | ⟨-, hn', -⟩ | ⟨-, -, ht⟩ := s.issue_cases i.opcode i.threshold (firstPhase i)
  · simp [he] at he'
  · omega
  · rw [exec_idle hi, ht]; rfl

/-- Settles O11: with every check passed an idle block accepts whichever operation it is. -/
theorem acceptanceStartsTheOperation : Obligations.AcceptanceStartsTheOperation := fun _ hi he hn =>
  ⟨exec_accepted hi he hn, fun _ => exec_accepted hi he hn, fun _ => exec_accepted hi he hn, exec_accepted hi he hn,
    exec_accepted hi he hn⟩

/-- Settles O12, by checks 2 and 4. -/
theorem idleCommandIsTurnedAway : Obligations.IdleCommandIsTurnedAway := fun _ _ hi =>
  ⟨exec_of_err hi, exec_over_capacity hi⟩

/-- Check 1: a command written while busy is a fault. -/
theorem writeCmd_of_busy {s : State} {v : Word} (hb : s.phase ≠ .idle) :
    writeCmd v s = .next (s.raise .busyWrite) := if_pos (State.busy_eq_true.2 hb)

/-- Check 2: a command written while idle with `ERR = 1` is dropped, whatever the word. -/
theorem writeCmd_of_err {s : State} {v : Word} (hi : s.phase = .idle) (he : s.err = true) : writeCmd v s = .next s := by
  simp [writeCmd, State.busy, hi, he]

/-- Only the pointwise operations, of opcodes 1 to 3, begin with `SCAN` (R71). -/
theorem firstPhase_eq_ite (i : Instr) : firstPhase i = if i.opcode.toNat ≤ 3 then .scan else .pass1 := by
  cases i <;> rfl

/-- A legal word's operation code and threshold are its bits 3:0 and 16:8. -/
theorem extract_of_decode {v : Word} {i : Instr} (h : decode v = .instr i) :
    v.extractLsb' 0 4 = i.opcode ∧ v.extractLsb' 8 9 = i.threshold :=
  ⟨congrArg Fields.opc (splitWord_of_decode h), congrArg Fields.t (splitWord_of_decode h)⟩

/-- Settles O13: one clause per check, in the order in which `writeCmd` makes them, then the acceptance. -/
theorem commandWriteChecksInOrder : Obligations.CommandWriteChecksInOrder := by
  intro s v rest hp
  have hstep : step s = writeCmd v { s with pending := rest } := step_of_pending hp
  have hbusy (hb : s.phase ≠ .idle) : step s = .next (State.raise .busyWrite { s with pending := rest }) :=
    hstep.trans (writeCmd_of_busy hb)
  refine ⟨fun hb he => (hbusy hb).trans (congrArg _ (State.raise_of_clear he)),
    fun hb he => (hbusy hb).trans (congrArg _ (State.raise_of_err he)),
    fun hi he => hstep.trans (writeCmd_of_err hi he),
    fun hi he ⟨_, hd⟩ => hstep.trans (writeCmd_of_illegal hi he hd),
    fun hi he ⟨_, hd⟩ hn => (step_of_command_write hp hi he hd).trans (exec_over_capacity hi he hn),
    fun hi he ⟨_, hd⟩ hn => (step_of_command_write hp hi he hd).trans ?_⟩
  obtain ⟨hopc, ht⟩ := extract_of_decode hd
  rw [hopc, ht, ← firstPhase_eq_ite]
  exact exec_accepted hi he hn

end Sys2Proof.Machine
end

section
/-! SUPPORT. What each host access does (43_host_access.md R150 to R157): the register reads and writes, the pixel
accesses, which of them are refused, and what they leave alone while an operation runs. -/

namespace Sys2Proof.Machine

/-! ### Register reads (R150) -/

theorem State.cmdWord_eq_ofNat (s : State) : s.cmdWord = BitVec.ofNat 32 (s.t.toNat * 256 + s.opc.toNat) := by
  have ht := s.t.isLt
  have ho := s.opc.isLt
  apply BitVec.eq_of_toNat_eq
  rw [State.cmdWord, joinFields_toNat, BitVec.toNat_ofNat]
  simp only [BitVec.ofNat_eq_ofNat, BitVec.toNat_zero]
  omega

theorem State.busy_toNat (s : State) : s.busy.toNat = if s.phase = .idle then 0 else 1 := by
  by_cases h : s.phase = .idle <;> simp [State.busy, h]

theorem State.statusWord_toNat (s : State) :
    s.statusWord.toNat = s.busy.toNat + 2 * s.done.toNat + 4 * s.err.toNat + 16 * s.cause.toNat := by
  have h : s.statusWord.toNat = ((0 : BitVec 24) ++ s.cause ++ (0 : BitVec 1) ++ BitVec.ofBool s.err ++
    BitVec.ofBool s.done ++ BitVec.ofBool s.busy : BitVec (24 + 4 + 1 + 1 + 1 + 1)).toNat := rfl
  simp only [h, toNat_append_add, BitVec.toNat_ofBool, BitVec.ofNat_eq_ofNat, BitVec.toNat_zero]
  omega

theorem State.statusWord_eq_ofNat (s : State) : s.statusWord =
    BitVec.ofNat 32 ((if s.phase = .idle then 0 else 1) + 2 * s.done.toNat + 4 * s.err.toNat + 16 * s.cause.toNat) := by
  rw [← s.busy_toNat, ← s.statusWord_toNat, BitVec.ofNat_toNat, BitVec.setWidth_eq]

/-- Settles O35: each register's word as a number. -/
theorem regReadReturnsTheRegister : Obligations.RegReadReturnsTheRegister := by
  intro s rest idx hp
  rw [step_of_pending hp, ← s.cmdWord_eq_ofNat, ← s.statusWord_eq_ofNat, BitVec.ofNat_toNat, BitVec.ofNat_toNat]
  refine ⟨?_, ?_, ?_, ?_⟩
  · rintro rfl; rfl
  · rintro rfl; rfl
  · rintro rfl; rfl
  · rintro rfl; rfl

/-! ### Register writes (R151, R153) -/

theorem writeWidth_of_idle {s : State} {v : Word} (h : s.phase = .idle) :
    writeWidth v s = .next { s with width := BitVec.ofNat 16 v.toNat } :=
  if_neg fun hb => State.busy_eq_true.1 hb h

theorem writeHeight_of_idle {s : State} {v : Word} (h : s.phase = .idle) :
    writeHeight v s = .next { s with height := BitVec.ofNat 16 v.toNat } :=
  if_neg fun hb => State.busy_eq_true.1 hb h

theorem writeWidth_of_busy {s : State} {v : Word} (h : s.phase ≠ .idle) :
    writeWidth v s = .next { s with err := true, cause := if s.err then s.cause else 3 } := by
  rw [writeWidth, if_pos (State.busy_eq_true.2 h), State.raise_eq]; rfl

theorem writeHeight_of_busy {s : State} {v : Word} (h : s.phase ≠ .idle) :
    writeHeight v s = .next { s with err := true, cause := if s.err then s.cause else 3 } := by
  rw [writeHeight, if_pos (State.busy_eq_true.2 h), State.raise_eq]; rfl

/-- Settles O36, by whether the block is idle. -/
theorem dimensionWrite : Obligations.DimensionWrite := by
  intro s v rest
  refine ⟨fun hi hp => (step_of_pending hp).trans (writeWidth_of_idle hi),
    fun hi hp => (step_of_pending hp).trans (writeHeight_of_idle hi), fun hb hp => ?_⟩
  rcases hp with hp | hp
  · exact (step_of_pending hp).trans (writeWidth_of_busy hb)
  · exact (step_of_pending hp).trans (writeHeight_of_busy hb)

/-- A write to `STATUS` clears `DONE` by bit `d` and `ERR` with `CAUSE` by bit `e`. -/
theorem State.clearDoneIf_acknowledgeIf_eq (s : State) (d e : Bool) : (s.clearDoneIf d).acknowledgeIf e =
    { s with done := s.done && !d, err := s.err && !e, cause := if e then 0 else s.cause } := by
  cases d <;> cases e <;> simp [State.clearDoneIf, State.acknowledgeIf, State.acknowledge]

/-- Settles O37: the two updates of the write as one record. -/
theorem statusWriteOneToClear : Obligations.StatusWriteOneToClear := fun _ _ _ hp =>
  (step_of_pending hp).trans (congrArg _ (State.clearDoneIf_acknowledgeIf_eq _ _ _))

/-! ### Pixel accesses (R154, R155) -/

theorem pixRead_outside {s : State} {off : Nat} (h : 4 * s.maxPixels ≤ off) :
    pixRead off s = .refused .pixelOffset := if_neg (Nat.not_lt.2 h)

theorem pixWrite_outside {s : State} {off : Nat} {b : Byte} (h : 4 * s.maxPixels ≤ off) :
    pixWrite off b s = .refused .pixelOffset := if_neg (Nat.not_lt.2 h)

theorem pixRead_of_idle {s : State} {off : Nat} (ho : off < 4 * s.maxPixels) (hi : s.phase = .idle) :
    pixRead off s = .next { s with
      replies := s.replies ++ [.pix (readOr s.pix off s.draws)], draws := s.draws + 1 } := by
  rw [pixRead, if_pos ho, if_neg fun hb => State.busy_eq_true.1 hb hi]; rfl

theorem pixRead_of_busy {s : State} {off : Nat} (ho : off < 4 * s.maxPixels) (hb : s.phase ≠ .idle) :
    pixRead off s = .next { s with
      replies := s.replies ++ [.pix (Config.unspecByte s.draws)], draws := s.draws + 1
      err := true, cause := if s.err then s.cause else 4 } := by
  rw [pixRead, if_pos ho, if_pos (State.busy_eq_true.2 hb), State.raise_eq]; rfl

theorem pixWrite_of_idle {s : State} {off : Nat} {b : Byte} (ho : off < 4 * s.maxPixels) (hi : s.phase = .idle) :
    pixWrite off b s = .next { s with pix := s.pix.write off b } := by
  rw [pixWrite, if_pos ho, if_neg fun hb => State.busy_eq_true.1 hb hi]

theorem pixWrite_of_busy {s : State} {off : Nat} {b : Byte} (ho : off < 4 * s.maxPixels) (hb : s.phase ≠ .idle) :
    pixWrite off b s = .next { s with err := true, cause := if s.err then s.cause else 4 } := by
  rw [pixWrite, if_pos ho, if_pos (State.busy_eq_true.2 hb), State.raise_eq]; rfl

theorem step_of_pixRead {s : State} {off : Nat} {rest : List Event} (hp : s.pending = .host (.pixRead off) :: rest)
    (ho : off < 4 * s.maxPixels) (hi : s.phase = .idle) : step s = .next { s with
      pending := rest, replies := s.replies ++ [.pix (readOr s.pix off s.draws)], draws := s.draws + 1 } :=
  (step_of_pending hp).trans (pixRead_of_idle ho hi)

theorem step_of_pixWrite {s : State} {off : Nat} {b : Byte} {rest : List Event}
    (hp : s.pending = .host (.pixWrite off b) :: rest) (ho : off < 4 * s.maxPixels) (hi : s.phase = .idle) :
    step s = .next { s with pending := rest, pix := s.pix.write off b } :=
  (step_of_pending hp).trans (pixWrite_of_idle ho hi)

/-- Settles O38: the draw of the read stands for a byte that is not held. -/
theorem pixelRead : Obligations.PixelRead := fun _ _ _ hp =>
  ⟨fun ho => (step_of_pending hp).trans (pixRead_outside ho),
    fun ho hi => ⟨_, _, mayRead_readOr _ _ _, step_of_pixRead hp ho hi⟩,
    fun ho hb => ⟨_, _, (step_of_pending hp).trans (pixRead_of_busy ho hb)⟩⟩

/-- Settles O39, by the laws of a memory write. -/
theorem pixelWrite : Obligations.PixelWrite := fun _ _ _ _ hp =>
  ⟨fun ho => (step_of_pending hp).trans (pixWrite_outside ho),
    fun ho hi => ⟨_, step_of_pixWrite hp ho hi, Memory.read_write_same _ _ _,
      fun _ ha => Memory.read_write_other _ _ ha, rfl⟩,
    fun ho hb => (step_of_pending hp).trans (pixWrite_of_busy ho hb)⟩

/-- Settles O40: the read meets the memory that the write left. -/
theorem pixelWriteThenRead : Obligations.PixelWriteThenRead := by
  intro s off a b x hp hi ho ha hx
  have hheld : (s.pix.write off b).read a = some (if a = off then b else x) := by
    rw [Memory.read_write]
    split
    · rfl
    · next hne => exact hx hne
  have hread := step_of_pixRead (s := { s with pending := [.host (.pixRead a)], pix := s.pix.write off b }) rfl ha hi
  refine ⟨_, runSteps_snoc (runSteps_succ (k := 0) (step_of_pixWrite hp ho hi)) hread, ?_⟩
  rw [readOr_of_read hheld]

/-! ### The refused accesses (R55, R154, R155, R156) -/

theorem regRead_refused_iff (s : State) : ∀ idx, (∃ r, regRead idx s = .refused r) ↔ 4 ≤ idx
  | 0 => by simp [regRead]
  | 1 => by simp [regRead]
  | 2 => by simp [regRead]
  | 3 => by simp [regRead]
  | n + 4 => by simp [regRead]

theorem writeCmd_ne_refused (v : Word) (s : State) (r : Refusal) : writeCmd v s ≠ .refused r := by
  unfold writeCmd
  split
  · simp
  · split
    · simp
    · split
      · simp
      · exact exec_ne_refused _ _ _

theorem regWrite_refused_iff (v : Word) (s : State) : ∀ idx, (∃ r, regWrite idx v s = .refused r) ↔ 4 ≤ idx
  | 0 => by simp [regWrite, writeCmd_ne_refused]
  | 1 => by simp [regWrite, writeStatus]
  | 2 => by simp only [regWrite, writeWidth]; split <;> simp
  | 3 => by simp only [regWrite, writeHeight]; split <;> simp
  | n + 4 => by simp [regWrite]

theorem pixRead_refused_iff (off : Nat) (s : State) : (∃ r, pixRead off s = .refused r) ↔ 4 * s.maxPixels ≤ off := by
  unfold pixRead
  split
  · next ho => split <;> simp [ho]
  · next ho => simpa using ho

theorem pixWrite_refused_iff (off : Nat) (b : Byte) (s : State) :
    (∃ r, pixWrite off b s = .refused r) ↔ 4 * s.maxPixels ≤ off := by
  unfold pixWrite
  split
  · next ho => split <;> simp [ho]
  · next ho => simpa using ho

/-- An aligned bus access lies outside exactly when the register it names does. -/
theorem busAccess_outside_iff {off size : Nat} (h : size = 4 ∧ off % 4 = 0) :
    4 ≤ off / 4 ↔ ¬(size = 4 ∧ off % 4 = 0 ∧ off < 16) := by omega

theorem hostAccess_refused_iff (a : Access) (s : State) :
    (∃ r, hostAccess a s = .refused r) ↔ a.Outside s.maxPixels := by
  cases a with
  | regRead idx => exact regRead_refused_iff s idx
  | regWrite idx v => exact regWrite_refused_iff v s idx
  | pixRead off => exact pixRead_refused_iff off s
  | pixWrite off b => exact pixWrite_refused_iff off b s
  | busRead off size =>
    obtain ⟨haligned, hpartial⟩ := busAccessNamesARegister s off size 0
    by_cases h : size = 4 ∧ off % 4 = 0
    · rw [(haligned h.1 h.2).1]
      exact (regRead_refused_iff s (off / 4)).trans (busAccess_outside_iff h)
    · exact iff_of_true ⟨_, (hpartial h).1⟩ fun hin => h ⟨hin.1, hin.2.1⟩
  | busWrite off size v =>
    obtain ⟨haligned, hpartial⟩ := busAccessNamesARegister s off size v
    by_cases h : size = 4 ∧ off % 4 = 0
    · rw [(haligned h.1 h.2).2]
      exact (regWrite_refused_iff v s (off / 4)).trans (busAccess_outside_iff h)
    · exact iff_of_true ⟨_, (hpartial h).2⟩ fun hin => h ⟨hin.1, hin.2.1⟩

theorem engineTurn_ne_refused (s : State) (r : Refusal) : engineTurn s ≠ .refused r := by
  unfold engineTurn
  split
  · split
    · exact exec_ne_refused _ _ _
    · simp
  · simp

/-- Settles O41: neither the engine nor reset is refused, and a host access exactly outside the interface. -/
theorem refusedExactlyOutsideTheInterface : Obligations.RefusedExactlyOutsideTheInterface := by
  intro s
  cases hp : s.pending with
  | nil =>
    have hstep : step s = engineTurn s := by rw [step, hp]
    simp [hstep, engineTurn_ne_refused]
  | cons e rest =>
    rw [step_of_pending hp]
    cases e with
    | host a => simpa [serve] using hostAccess_refused_iff a { s with pending := rest }
    | reset => simp [serve]
    | engine => simp [serve, engineTurn_ne_refused]

/-! ### Host accesses while an operation runs (R60, R157) -/

/-- Settles O43: the transitions of a host access that need an idle block are excluded, the others write flags,
replies and the draw count. -/
theorem hostCannotDisturbARunningOperation : Obligations.HostCannotDisturbARunningOperation := by
  intro s t a hb h
  have htransition : Transition { s with pending := .host a :: s.pending } (some (.host a)) s t :=
    hostAccess_transition rfl h
  cases htransition with
  | operation _ _ he => simp at he
  | rest he => simp at he
  | command _ _ _ _ _ _ hi => exact absurd hi hb
  | dropped _ _ hi => exact absurd hi hb
  | faulted _ c => rw [State.raise_eq]; exact ⟨rfl, id⟩
  | registerRead => exact ⟨rfl, id⟩
  | statusWritten => rw [State.clearDoneIf_acknowledgeIf_eq]; exact ⟨rfl, fun hd => (Bool.and_eq_true_iff.1 hd).1⟩
  | widthWritten _ _ _ hi => exact absurd hi hb
  | heightWritten _ _ _ hi => exact absurd hi hb
  | pixelRead _ _ _ hi => exact absurd hi hb
  | pixelReadBusy => rw [State.raise_eq]; exact ⟨rfl, id⟩
  | pixelWritten _ _ _ hi => exact absurd hi hb
  | reset he => simp at he

end Sys2Proof.Machine
end

section
/-! SUPPORT. The synchronous call (43_host_access.md R158): the count of the engine steps from the acceptance of a
command until its operation is done. -/

namespace Sys2Proof.Machine

/-! ### The countdown of an operation (R158, R200) -/

/-- The operation `i` runs and has the block to itself: nothing is scheduled, `CMD` holds it, the phase is one of its
own and `POS` is in the image or at its end. -/
structure State.Runs (i : Instr) (s : State) : Prop where
  unscheduled : s.pending = []
  command : decode s.cmdWord = .instr i
  busy : s.phase ≠ .idle
  ownPhase : s.phase = .scan ↔ firstPhase i = .scan
  inImage : s.pos ≤ s.npix

/-- How many engine steps are left until the completion step is made (R100, R121, R122, R130). -/
def State.stepsLeft (s : State) : Nat :=
  match s.phase with
  | .idle => 0
  | .scan => s.npix - s.pos + 1
  | .pass1 => (s.npix - s.pos + 1) + (s.npix + 1)
  | .pass2 => s.npix - s.pos + 1

/-- From `s` to `t` an operation wrote neither its operands, nor `ERR`, nor a byte of `PIX` that is no colour byte of
the image (R52, R56, R181). -/
structure State.OperandsKept (s t : State) : Prop where
  err : t.err = s.err
  cmdWord : t.cmdWord = s.cmdWord
  width : t.width = s.width
  height : t.height = s.height
  pix : ∀ a, a % 4 = 3 ∨ 4 * s.npix ≤ a → t.pix.read a = s.pix.read a

namespace State.OperandsKept

variable {s t u : State}

theorem refl (s : State) : s.OperandsKept s := ⟨rfl, rfl, rfl, rfl, fun _ _ => rfl⟩

theorem npix (h : s.OperandsKept t) : t.npix = s.npix := by rw [State.npix, h.width, h.height]; rfl

theorem trans (h : s.OperandsKept t) (h' : t.OperandsKept u) : s.OperandsKept u where
  err := h'.err.trans h.err
  cmdWord := h'.cmdWord.trans h.cmdWord
  width := h'.width.trans h.width
  height := h'.height.trans h.height
  pix := fun a ha => (h'.pix a (h.npix ▸ ha)).trans (h.pix a ha)

theorem of_exec {i : Instr} (hb : s.phase ≠ .idle) (h : exec i s = .next t) : s.OperandsKept t := by
  have hframe := exec_busy_frame hb h
  exact ⟨by rw [hframe], by rw [hframe]; rfl, by rw [hframe], by rw [hframe],
    alphaAndBytesBeyondTheImageAreUntouched s t i h⟩

end State.OperandsKept

namespace State.Runs

variable {s : State} {i : Instr}

theorem firstPhase_eq_pass1 (h : s.Runs i) (hp : s.phase ≠ .scan) : firstPhase i = .pass1 :=
  (firstPhase_scan_or_pass1 i).resolve_left (mt h.ownPhase.2 hp)

/-- An acceptance with nothing else scheduled starts the operation. -/
theorem of_accept (hp : s.pending = []) : (s.accept i.opcode i.threshold (firstPhase i)).Runs i where
  unscheduled := hp
  command := State.decode_cmdWord_accept i _ s
  busy := by rcases firstPhase_scan_or_pass1 i with h | h <;> simp [h]
  ownPhase := Iff.rfl
  inImage := Nat.zero_le _

/-- A pixel step, in whichever phase, is one of the steps left. -/
theorem advance (h : s.Runs i) (hl : s.pos < s.npix) (pix lum : Memory) (d : Nat) :
    State.Runs i { s with pix := pix, lum := lum, pos := s.pos + 1, draws := d } ∧
    State.stepsLeft { s with pix := pix, lum := lum, pos := s.pos + 1, draws := d } + 1 = s.stepsLeft := by
  refine ⟨{ h with inImage := hl }, ?_⟩
  unfold State.npix at hl
  cases hp : s.phase with
  | idle => exact absurd hp h.busy
  | scan => simp only [stepsLeft, hp, State.npix]; omega
  | pass1 => simp only [stepsLeft, hp, State.npix]; omega
  | pass2 => simp only [stepsLeft, hp, State.npix]; omega

/-- The operation has a step: one of the steps left is made, and the operation goes on, or it was the last and the
operation is done. -/
theorem exec_next (h : s.Runs i) : ∃ t, exec i s = .next t ∧
    (t.Runs i ∧ t.stepsLeft + 1 = s.stepsLeft ∨ t.phase = .idle ∧ t.done = true ∧ s.stepsLeft = 1) := by
  have hpos := h.inImage
  cases hp : s.phase with
  | idle => exact absurd hp h.busy
  | scan =>
    have hi : firstPhase i = .scan := h.ownPhase.1 hp
    rcases hpos.lt_or_eq with hl | hl
    · obtain ⟨_, _, _, _, _, -, -, hexec⟩ := exec_scan_pixel hp hi hl
      exact ⟨_, hexec, .inl (h.advance hl _ _ _)⟩
    · exact ⟨_, exec_scan_end hp hi hl, .inr ⟨rfl, rfl, by simp only [stepsLeft, hp]; omega⟩⟩
  | pass1 =>
    have hi : firstPhase i = .pass1 := h.firstPhase_eq_pass1 (by simp [hp])
    rcases hpos.lt_or_eq with hl | hl
    · obtain ⟨_, _, _, _, -, hexec⟩ := exec_pass1_pixel hp hi hl
      exact ⟨_, hexec, .inl (h.advance hl _ _ _)⟩
    · refine ⟨_, exec_pass1_end hp hi hl, .inl ⟨?_, by simp only [stepsLeft, hp, State.npix] at hl ⊢; omega⟩⟩
      exact { h with busy := by simp, ownPhase := by simp [hi], inImage := Nat.zero_le _ }
  | pass2 =>
    have hi : firstPhase i = .pass1 := h.firstPhase_eq_pass1 (by simp [hp])
    rcases hpos.lt_or_eq with hl | hl
    · obtain ⟨_, _, _, _, -, -, -, hexec⟩ := exec_pass2_pixel hp hi hl
      exact ⟨_, hexec, .inl (h.advance hl _ _ _)⟩
    · exact ⟨_, exec_pass2_end hp hi hl, .inr ⟨rfl, rfl, by simp only [stepsLeft, hp]; omega⟩⟩

/-- The step of the machine is that of the operation. -/
theorem step_next (h : s.Runs i) : ∃ t, step s = .next t ∧ s.OperandsKept t ∧
    (t.Runs i ∧ t.stepsLeft + 1 = s.stepsLeft ∨ t.phase = .idle ∧ t.done = true ∧ s.stepsLeft = 1) := by
  obtain ⟨t, hexec, ht⟩ := h.exec_next
  exact ⟨t, (step_of_busy h.unscheduled h.busy h.command).trans hexec, .of_exec h.busy hexec, ht⟩

/-- Fewer steps than are left leave the operation running. -/
theorem runSteps_lt (h : s.Runs i) {k : Nat} (hk : k < s.stepsLeft) :
    ∃ u, runSteps k s = .next u ∧ u.Runs i ∧ s.OperandsKept u ∧ u.stepsLeft + k = s.stepsLeft := by
  induction k with
  | zero => exact ⟨s, rfl, h, .refl s, rfl⟩
  | succ k ih =>
    obtain ⟨u, hrun, hu, hkept, hleft⟩ := ih (by omega)
    obtain ⟨t, hstep, hkept', ⟨ht, hleft'⟩ | ⟨-, -, hlast⟩⟩ := hu.step_next
    · exact ⟨t, runSteps_snoc hrun hstep, ht, hkept.trans hkept', by omega⟩
    · omega

theorem stepsLeft_pos (h : s.Runs i) : 0 < s.stepsLeft := by
  have hb := h.busy
  cases hp : s.phase <;> simp_all [stepsLeft]

/-- All the steps left complete it. -/
theorem runSteps_stepsLeft (h : s.Runs i) :
    ∃ t, runSteps s.stepsLeft s = .next t ∧ t.phase = .idle ∧ t.done = true ∧ s.OperandsKept t := by
  obtain ⟨n, hn⟩ : ∃ n, s.stepsLeft = n + 1 := Nat.exists_eq_add_one.2 h.stepsLeft_pos
  obtain ⟨u, hrun, hu, hkept, hleft⟩ := h.runSteps_lt (k := n) (by omega)
  obtain ⟨t, hstep, hkept', ⟨ht, hleft'⟩ | ⟨hidle, hdone, -⟩⟩ := hu.step_next
  · have := ht.stepsLeft_pos
    omega
  · exact ⟨t, hn ▸ runSteps_snoc hrun hstep, hidle, hdone, hkept.trans hkept'⟩

end State.Runs

/-- At its acceptance an operation has all its engine steps before it. -/
theorem State.stepsLeft_accept (i : Instr) (s : State) :
    (s.accept i.opcode i.threshold (firstPhase i)).stepsLeft = engineSteps i s.npix := by
  cases i <;> simp [State.stepsLeft, engineSteps, firstPhase] <;> omega

/-- Settles O58: the write accepts the command, and the engine steps count the operation down. -/
theorem synchronousCallCompletes : Obligations.SynchronousCallCompletes := by
  intro s i hp hi he hn
  have haccept : step s = .next (State.accept i.opcode i.threshold (firstPhase i) { s with pending := [] }) :=
    (step_of_command_write hp hi he (decode_encode i)).trans (exec_accepted hi he hn)
  have hruns : (State.accept i.opcode i.threshold (firstPhase i) { s with pending := [] }).Runs i := .of_accept rfl
  have hleft := State.stepsLeft_accept i { s with pending := [] }
  refine ⟨fun k h1 hk => ?_, ?_⟩
  · obtain ⟨j, rfl⟩ : ∃ j, k = j + 1 := Nat.exists_eq_add_one.2 h1
    obtain ⟨u, hrun, hu, -⟩ := hruns.runSteps_lt (k := j) (hleft ▸ hk)
    exact ⟨u, (runSteps_succ haccept).trans hrun, hu.busy⟩
  · obtain ⟨t, hrun, hidle, hdone, hkept⟩ := hruns.runSteps_stepsLeft
    rw [hleft] at hrun
    rw [Nat.add_comm, runSteps_succ haccept]
    exact ⟨t, hrun, hidle, hdone, hkept.err.trans he, hkept.cmdWord, hkept.width, hkept.height, hkept.pix⟩

end Sys2Proof.Machine
end

section
/-! SUPPORT. The two kinds of fault (60_exceptions.md): the block's own, recorded in `ERR` and `CAUSE`, which no engine
step reads or writes (R181), and the model's stops, which no state that meets the invariant has (log entry 7). -/

namespace Sys2Proof.Machine

/-! ### Taking a fault (R172, R175) -/

/-- Settles O45, by whether a fault is recorded; the four codes by evaluation. -/
theorem faultEntryChangesOnlyErrAndCause : Obligations.FaultEntryChangesOnlyErrAndCause := fun s c =>
  ⟨State.raise_of_clear, State.raise_of_err, s.raise_err c, by cases c <;> rfl⟩

/-! ### Engine steps and the fault registers (R181) -/

/-- The same block with another fault state. -/
def State.withFault (err : Bool) (cause : BitVec 4) (s : State) : State := { s with err := err, cause := cause }

namespace State

variable (e : Bool) (c : BitVec 4) (s : State)

theorem acc_withFault (j : Nat) (x : Int) : (s.withFault e c).acc j x = (s.acc j x).withFault e c := by
  rw [acc, acc, apply_ite (withFault e c)]; rfl

theorem setPos_withFault (l : Nat) : (s.setPos l).withFault e c = (s.withFault e c).setPos l := rfl

theorem diffuse_withFault (l : Nat) (q : Int) (ns : List (Nat × Int)) :
    diffuse l q ns (s.withFault e c) = (diffuse l q ns s).withFault e c := by
  induction ns generalizing s with
  | nil => rfl
  | cons n ns ih => rw [diffuse, acc_withFault, ih, diffuse]

theorem scanStep_withFault (out : Byte → Byte → Byte → Byte) :
    (s.withFault e c).scanStep out = (s.scanStep out).withFault e c := by
  rw [scanStep, scanStep, apply_ite (withFault e c)]; rfl

theorem pass1Step_withFault : (s.withFault e c).pass1Step = s.pass1Step.withFault e c := by
  rw [pass1Step, pass1Step, apply_ite (withFault e c)]; rfl

theorem pass2Step_withFault (d : Int) (ns : List (Nat × Int)) :
    (s.withFault e c).pass2Step d ns = (s.pass2Step d ns).withFault e c := by
  rw [pass2Step, pass2Step, apply_ite (withFault e c), setPos_withFault, ← diffuse_withFault]; rfl

end State

/-- The output of a pixel does not depend on the fault registers. -/
theorem outputFunction_withFault (e : Bool) (c : BitVec 4) (i : Instr) (s : State) :
    outputFunction i (s.withFault e c) = outputFunction i s := by
  cases i <;> rfl

/-- An engine step does the same whatever fault is recorded. -/
theorem exec_withFault (e : Bool) (c : BitVec 4) {i : Instr} {s t : State} (hb : s.phase ≠ .idle)
    (h : exec i s = .next t) : exec i (s.withFault e c) = .next (t.withFault e c) := by
  obtain ⟨hp, -⟩ | ⟨hp, hi, rfl⟩ | ⟨hp, hi, rfl⟩ | ⟨hp, hi, -⟩ := exec_next_cases h
  · exact absurd hp hb
  · rw [exec_scan (s := s.withFault e c) hp hi, outputFunction_withFault, State.scanStep_withFault]
  · rw [exec_pass1 (s := s.withFault e c) hp hi, State.pass1Step_withFault]
  · rw [exec_pass2 hp hi, Host.Outcome.next.injEq] at h
    subst h
    rw [exec_pass2 (s := s.withFault e c) hp hi, State.pass2Step_withFault]; rfl

/-- Settles O47: the frame of an engine step, and its step from another fault state. -/
theorem engineStepsIgnoreFaults : Obligations.EngineStepsIgnoreFaults := by
  intro s i hb
  refine ⟨fun t h => ?_, fun e c t h => exec_withFault e c hb h⟩
  rw [exec_busy_frame hb h]
  exact ⟨rfl, rfl, rfl, rfl, rfl, rfl, rfl, rfl, rfl⟩

/-! ### The model's stops (R41(c), log entry 7) -/

/-- In a phase of its own an operation has a step. -/
theorem exec_next_of_ownPhase {i : Instr} {s : State} (hb : s.phase ≠ .idle)
    (hown : s.phase = .scan ↔ firstPhase i = .scan) : ∃ t, exec i s = .next t := by
  have hpass (hp : s.phase ≠ .scan) : firstPhase i = .pass1 :=
    (firstPhase_scan_or_pass1 i).resolve_left (mt hown.2 hp)
  cases hp : s.phase with
  | idle => exact absurd hp hb
  | scan => exact ⟨_, exec_scan hp (hown.1 hp)⟩
  | pass1 => exact ⟨_, exec_pass1 hp (hpass (by simp [hp]))⟩
  | pass2 => exact ⟨_, exec_pass2 hp (hpass (by simp [hp]))⟩

theorem firstPhase_of_diffusion_opcode {i : Instr} (h : i.opcode = 4 ∨ i.opcode = 5) : firstPhase i = .pass1 := by
  cases i <;> simp_all [firstPhase, Instr.opcode]

/-- A busy block holds in `CMD` an operation whose phase it is in (R41(c)). -/
theorem State.Inv.exists_operation {s : State} (h : s.Inv) (hb : s.phase ≠ .idle) :
    ∃ i, decode s.cmdWord = .instr i ∧ (s.phase = .scan ↔ firstPhase i = .scan) := by
  by_cases hp : s.phase = .scan
  · obtain ⟨i, hd, hopc⟩ := h.scanOperation hp
    exact ⟨i, hd, iff_of_true hp (firstPhase_of_opcode hopc)⟩
  · have hpass : s.phase = .pass1 ∨ s.phase = .pass2 := by cases hs : s.phase <;> simp_all
    obtain ⟨i, hd, hopc⟩ := h.passOperation hpass
    exact ⟨i, hd, iff_of_false hp (by simp [firstPhase_of_diffusion_opcode hopc])⟩

theorem State.Inv.engineTurn_ne_fault {s : State} (h : s.Inv) (f : Fault) : engineTurn s ≠ .fault f := by
  by_cases hi : s.phase = .idle
  · simp [engineTurn, State.busy, hi]
  · obtain ⟨i, hd, hown⟩ := h.exists_operation hi
    obtain ⟨t, hexec⟩ := exec_next_of_ownPhase hi hown
    simp [engineTurn_of_busy hi hd, hexec]

/-- A write to `CMD` reaches a meaning only while idle, where every operation has its acceptance (R152). -/
theorem writeCmd_ne_fault (v : Word) (s : State) (f : Fault) : writeCmd v s ≠ .fault f := by
  by_cases hi : s.phase = .idle
  · unfold writeCmd
    split
    · simp
    · split
      · simp
      · split
        · simp
        · simp [exec_idle hi]
  · simp [writeCmd_of_busy hi]

theorem regRead_ne_fault (idx : Nat) (s : State) (f : Fault) : regRead idx s ≠ .fault f := by
  unfold regRead
  split <;> simp

theorem regWrite_ne_fault (v : Word) (s : State) (f : Fault) : ∀ idx, regWrite idx v s ≠ .fault f
  | 0 => writeCmd_ne_fault v s f
  | 1 => by simp [regWrite, writeStatus]
  | 2 => by simp only [regWrite, writeWidth]; split <;> simp
  | 3 => by simp only [regWrite, writeHeight]; split <;> simp
  | n + 4 => by simp [regWrite]

theorem pixRead_ne_fault (off : Nat) (s : State) (f : Fault) : pixRead off s ≠ .fault f := by
  unfold pixRead
  split
  · split <;> simp
  · simp

theorem pixWrite_ne_fault (off : Nat) (b : Byte) (s : State) (f : Fault) : pixWrite off b s ≠ .fault f := by
  unfold pixWrite
  split
  · split <;> simp
  · simp

/-- No host access stops the model with a fault, in any state. -/
theorem hostAccess_ne_fault (a : Access) (s : State) (f : Fault) : hostAccess a s ≠ .fault f := by
  cases a with
  | regRead idx => exact regRead_ne_fault idx s f
  | regWrite idx v => exact regWrite_ne_fault v s f idx
  | pixRead off => exact pixRead_ne_fault off s f
  | pixWrite off b => exact pixWrite_ne_fault off b s f
  | busRead off size =>
    simp only [hostAccess, busRead]
    split
    · exact regRead_ne_fault _ s f
    · simp
  | busWrite off size v =>
    simp only [hostAccess, busWrite]
    split
    · exact regWrite_ne_fault v s f _
    · simp

/-- Settles O56: host accesses and reset never fault, and the invariant gives the engine's turn its step. -/
theorem noStepStopsWithAFault : Obligations.NoStepStopsWithAFault := by
  intro s f h
  cases hp : s.pending with
  | nil =>
    have hstep : step s = engineTurn s := by rw [step, hp]
    exact hstep ▸ h.engineTurn_ne_fault f
  | cons e rest =>
    rw [step_of_pending hp]
    cases e with
    | host a => exact hostAccess_ne_fault a _ f
    | reset => simp [serve]
    | engine => exact (h.withFlags rest _ _ h.causeIffErr id).engineTurn_ne_fault f

end Sys2Proof.Machine
end

section
/-! SUPPORT. Reset and hazards (70_reset_and_hazards.md): the bounded completion of whatever operation runs, the reset
transition, and the rest of an idle block. -/

namespace Sys2Proof.Machine

/-! ### Completion (R138, R200, R201) -/

/-- A busy block that meets the invariant runs an operation, once nothing is scheduled. -/
theorem State.Inv.exists_runs {s : State} (h : s.Inv) (hb : s.phase ≠ .idle) :
    ∃ i, State.Runs i { s with pending := [] } := by
  obtain ⟨i, hcommand, hown⟩ := h.exists_operation hb
  exact ⟨i, ⟨rfl, hcommand, hb, hown, (h.busyFits hb).2⟩⟩

/-- The longest way to completion is that of a diffusion operation just accepted. -/
theorem State.stepsLeft_le (s : State) : s.stepsLeft ≤ 2 * s.npix + 2 := by
  unfold State.stepsLeft
  split <;> omega

/-- Settles O57: an idle block is done in no step; an operation that runs has at most `2 * NPIX + 2` steps left, and
these complete it. -/
theorem engineAlwaysCompletes : Obligations.EngineAlwaysCompletes := by
  intro s h
  by_cases hi : s.phase = .idle
  · exact ⟨0, _, Nat.zero_le _, rfl, hi, absurd hi⟩
  · obtain ⟨i, hruns⟩ := h.exists_runs hi
    obtain ⟨t, hrun, hidle, hdone, -⟩ := hruns.runSteps_stepsLeft
    exact ⟨_, t, State.stepsLeft_le { s with pending := [] }, hrun, hidle, fun _ => hdone⟩

/-! ### The reset transition (R190 to R192) -/

theorem isImageColour_eq_true {n a : Nat} : isImageColour n a = true ↔ a < 4 * n ∧ a % 4 ≠ 3 := by
  simp [isImageColour]

@[simp] theorem State.resetBlock_cmdWord (s : State) : s.resetBlock.cmdWord = 0 := by
  rw [State.cmdWord, State.resetBlock_opc, State.resetBlock_t]
  decide
@[simp] theorem State.resetBlock_statusWord (s : State) : s.resetBlock.statusWord = 0 := by
  simp [State.statusWord_eq_ofNat]
@[simp] theorem State.resetBlock_widthWord (s : State) : s.resetBlock.widthWord = 0 := rfl
@[simp] theorem State.resetBlock_heightWord (s : State) : s.resetBlock.heightWord = 0 := rfl

theorem State.resetBlock_pix_of_idle {s : State} (h : s.phase = .idle) : s.resetBlock.pix = s.pix :=
  if_neg fun hb => State.busy_eq_true.1 hb h

/-- A reset of a busy block makes the colour bytes of the image `UNSPEC`, and no other byte. -/
theorem State.resetBlock_pix_read_of_busy {s : State} (h : s.phase ≠ .idle) (a : Nat) :
    s.resetBlock.pix.read a = if a < 4 * s.npix ∧ a % 4 ≠ 3 then none else s.pix.read a := by
  rw [State.resetBlock_pix, if_pos (State.busy_eq_true.2 h), Memory.read_forget]
  simp only [isImageColour_eq_true]

/-- Settles O50: the registers by the fields of the reset block, `PIX` by whether the block was idle. -/
theorem resetTransition : Obligations.ResetTransition := by
  intro s rest hp
  have hstep : step s = .next (State.resetBlock { s with pending := rest }) := step_of_pending hp
  refine ⟨_, hstep, State.resetBlock_cmdWord _, State.resetBlock_statusWord _, State.resetBlock_widthWord _,
    State.resetBlock_heightWord _, rfl, rfl, Memory.read_nil, fun hi a => ?_, fun hb a => ?_, rfl, rfl, rfl⟩
  · rw [State.resetBlock_pix_of_idle (s := { s with pending := rest }) hi]
  · have hread := State.resetBlock_pix_read_of_busy (s := { s with pending := rest }) hb a
    exact ⟨fun hc => hread.trans (if_pos hc), fun hk => hread.trans (if_neg fun hc => hk.elim hc.1.not_ge hc.2)⟩

/-! ### The idle block (R191) -/

theorem engineTurn_of_idle {s : State} (h : s.phase = .idle) : engineTurn s = .next s :=
  if_neg fun hb => State.busy_eq_true.1 hb h

/-- Settles O16: the engine has the turn with nothing scheduled or scheduled itself, and has no step while idle. -/
theorem idleBlockDoesNothing : Obligations.IdleBlockDoesNothing := by
  intro s hi
  refine ⟨fun hp => ?_, fun rest hp => ?_⟩
  · rw [step, hp]
    exact engineTurn_of_idle hi
  · exact (step_of_pending hp).trans (engineTurn_of_idle hi)

end Sys2Proof.Machine
end
